-- ==== Sys2Proof/Word.lean ====
section
/-! DEFINITION. The word types of the MBSA: an energy value or a byte of the external memory is 8 bits,
a register, a command word and a palette entry are 32 bits (R7). -/

namespace Sys2Proof

/-- An energy value (canvas cell, LUT cell) or one byte of the external memory (R7, R49). -/
abbrev Byte := BitVec 8

/-- A register of the register port, a command word, a palette entry, an external address (R7). -/
abbrev Word := BitVec 32

end Sys2Proof
end

