-- ==== Sys2Proof/Config.lean ====
section
/-! DEFINITION. What an implementation fixes (R6), and the free values: what the spec leaves to the platform or to an
oracle, as opaque constants of which nothing can be proved. -/

namespace Sys2Proof

/-- The three build parameters (R6). State holds them as plain data that no step changes, so that every statement
about every state holds for every choice of them. -/
structure Params where
  /-- W, the canvas width in pixels. -/
  w : Nat
  /-- H, the canvas height in pixels. -/
  h : Nat
  /-- DMAX, the largest LUT diameter the LUT memory holds. -/
  dmax : Nat
  deriving DecidableEq, Repr

/-- The legal ranges of R6. -/
def Params.legal (p : Params) : Bool :=
  decide (1 ≤ p.w ∧ p.w ≤ 4096) && decide (1 ≤ p.h ∧ p.h ≤ 4096) && decide (1 ≤ p.dmax ∧ p.dmax ≤ 4095)

/-- The reference values of R6, "examples, not requirements". DESIGN CHOICE (log 1): State.reset holds them. -/
def Params.reference : Params := ⟨640, 480, 256⟩

/-- The external memory's answer to one master-port write (R51). -/
inductive BusReply where
  /-- `ok`: all four bytes are written. -/
  | ok
  /-- `err`: the four bytes were written or were not, which `landed` says (R51, R120). -/
  | err (landed : Bool)
  deriving DecidableEq, Repr, Inhabited

/-- REG_BASE (R48, R57): where the platform puts the register window; open, and not visible to the MBSA. Log 4. -/
opaque Config.regBase : Nat

/-- IRQ_LINE (R129): the platform's interrupt line that irq is wired to; open. Log 4. -/
opaque Config.irqLine : Nat

/-- The response oracle (R51) once the replies that State lists are used up. FREE VALUE, log 6. -/
opaque Config.freeReply : Nat → BusReply

/-- What a byte of the external memory holds before anything has written it, by address: "not the MBSA's state" (R49), and any
value (R62, I5). FREE VALUE, log 3. -/
opaque Config.initialByte : Nat → Byte

/-- How many host turns come before the engine's next step once the turns that State lists are used up: any finite number,
which is the weak fairness of R93. FREE VALUE, log 5. -/
opaque Config.freeDelay : Nat → Nat

end Sys2Proof
end

