-- ==== Sys2Proof/Syntax.lean ====
section
/-! DEFINITION. The MBSA command set, version 1 (R2): one constructor per row of the opcode table (R72). -/

namespace Sys2Proof

/-- A command with the operands its word carries. DIAM, X and Y are unsigned integers of 12 bits (R69, R70),
used in exact integer arithmetic (R10), so they are naturals; `Instr.wf` says which fit the word. ADDSAT's VALUE and
MAP's BASE and STRIDE come from registers (R71) and are no part of the word. -/
inductive Instr where
  /-- R94: no operation. -/
  | nop
  /-- R105: set every canvas cell to 0. -/
  | clear
  /-- R100: build the radial falloff table of this diameter. -/
  | buildLut (diam : Nat)
  /-- R109: add the whole LUT into the canvas, its cell (0, 0) at canvas cell (x, y). -/
  | splat (x y : Nat)
  /-- R106: saturating add of CMD_ARG.VALUE into canvas cell (x, y). -/
  | addsat (x y : Nat)
  /-- R121: write the palette colour of every canvas cell to the output buffer. -/
  | map
  deriving DecidableEq, Repr

end Sys2Proof
end

