-- ==== Sys2Proof/WellFormed.lean ====
section
/-! DEFINITION. Which commands have a word: every operand fits its 12-bit field (R69, R70, R78). -/

namespace Sys2Proof

/-- Every operand is in 0..4095, the range of its field. Whether the MBSA accepts the command is another question,
asked at issue (R86). -/
def Instr.wf : Instr → Bool
  | .nop => true
  | .clear => true
  | .buildLut diam => decide (diam < 4096)
  | .splat x y => decide (x < 4096) && decide (y < 4096)
  | .addsat x y => decide (x < 4096) && decide (y < 4096)
  | .map => true

end Sys2Proof
end

