-- ==== Sys2Proof/Decode.lean ====
section
/-! DEFINITION. Decoding a command word (R76), total, with the two illegal results named (R73, R74); and the encoder,
written from the formats N, D and P (R68) and the opcode map (R72). -/

namespace Sys2Proof

/-- Why a word is no command. -/
inductive Illegal where
  /-- OP is 0x6 to 0xF (R73). -/
  | opcode
  /-- The opcode is legal and a reserved bit of its format is 1 (R74). -/
  | reservedBits
  deriving DecidableEq, Repr

/-- The opcode field, bits [31:28] of every format (R68). -/
def opField (w : Word) : BitVec 4 := w.extractLsb' 28 4

/-- Bits [11:0]: X of format P, DIAM of format D (R69, R70). -/
def lowField (w : Word) : Nat := (w.extractLsb' 0 12).toNat

/-- Bits [23:12]: Y of format P (R69). -/
def midField (w : Word) : Nat := (w.extractLsb' 12 12).toNat

/-- R76. Decoding depends on nothing but the word, and the opcode is looked at before the reserved bits. -/
def decode (w : Word) : Except Illegal Instr :=
  match (opField w).toNat with
  | 0x0 => if w.extractLsb' 0 28 = 0 then .ok .nop else .error .reservedBits
  | 0x1 => if w.extractLsb' 0 28 = 0 then .ok .clear else .error .reservedBits
  | 0x2 => if w.extractLsb' 12 16 = 0 then .ok (.buildLut (lowField w)) else .error .reservedBits
  | 0x3 => if w.extractLsb' 24 4 = 0 then .ok (.splat (lowField w) (midField w)) else .error .reservedBits
  | 0x4 => if w.extractLsb' 24 4 = 0 then .ok (.addsat (lowField w) (midField w)) else .error .reservedBits
  | 0x5 => if w.extractLsb' 0 28 = 0 then .ok .map else .error .reservedBits
  | _ => .error .opcode

/-- The opcode of a command (R72), the value STATUS.LAST_OP gets (R87, R88). -/
def Instr.opcode : Instr → BitVec 4
  | .nop => 0x0
  | .clear => 0x1
  | .buildLut _ => 0x2
  | .splat _ _ => 0x3
  | .addsat _ _ => 0x4
  | .map => 0x5

/-- Format N (R68): OP, then 28 reserved bits. -/
def formatN (op : BitVec 4) : Word := op ++ (0 : BitVec 28)

/-- Format D (R68): OP, 16 reserved bits, DIAM. -/
def formatD (op : BitVec 4) (diam : Nat) : Word := op ++ (0 : BitVec 16) ++ BitVec.ofNat 12 diam

/-- Format P (R68): OP, 4 reserved bits, Y, X. -/
def formatP (op : BitVec 4) (x y : Nat) : Word := op ++ (0 : BitVec 4) ++ BitVec.ofNat 12 y ++ BitVec.ofNat 12 x

/-- The word of a well-formed command (R68, R72). -/
def encode : Instr → Word
  | .nop => formatN 0x0
  | .clear => formatN 0x1
  | .buildLut diam => formatD 0x2 diam
  | .splat x y => formatP 0x3 x y
  | .addsat x y => formatP 0x4 x y
  | .map => formatN 0x5

/-- The command this decoder reads from a table row's bits. Every command is one 32-bit word (R67, R77), which the host
writes to CMD as a number, so there is no byte order to apply. Bits from `nbits` upwards are 0. -/
def decodeTableWord (nbits w : Nat) : Option Instr :=
  if nbits ≤ 32 then (decode (BitVec.ofNat 32 (w % 2 ^ nbits))).toOption else none

end Sys2Proof
end

