-- ==== Sys2Proof/Machine/State.lean ====
section
/-! DEFINITION. The state of the MBSA (10_state.md) with its host program and its inputs, as plain data; the reasons a step
can stop; and the state after reset (R139). -/

namespace Sys2Proof.Machine

/-- The command error codes of R125, 0x00 to 0x0C. Codes 0x0D to 0xFF are never produced, so they have no name here. -/
inductive ErrCode where
  | ok | illegalOpcode | reservedBits | noPalette | noClear | noLut | lutLocked | badDiameter | bounds
  | badStride | misaligned | addrRange | busError
  deriving DecidableEq, Repr

/-- The registers of the register map (R20), by name. -/
inductive Reg where
  | id | version | canvasW | canvasH | lutDmax | ctrl | status | err | int | cmd | cmdArg | outBase | outStride
  | lutDiam | canvasPtr | canvasData | lutPtr | lutData | palCount
  /-- PAL[k], palette entry k (R38). -/
  | pal (k : BitVec 8)
  deriving DecidableEq, Repr

/-- The pending command (R43): an accepted command with the copies taken at acceptance (R89), and the MAP progress
index (R44), which is 0 at acceptance and counts only for a MAP. -/
structure Pending where
  instr : Instr
  /-- VALUE, the copy of CMD_ARG.VALUE. -/
  value : Byte
  /-- BASE, the copy of OUT_BASE. -/
  base : Word
  /-- STRIDE, the copy of OUT_STRIDE.STRIDE. -/
  stride : BitVec 16
  /-- The linear index n of the next pixel MAP writes (R44). -/
  index : Nat
  deriving DecidableEq, Repr

/-- A statement of the host assembly (R78). Labels and temporaries are numbered. -/
inductive Stmt where
  /-- `NOP`, `CLEAR`, `BUILD_LUT d`, `SPLAT x, y`, `ADDSAT x, y`, `MAP`: write the command's word to CMD. -/
  | cmd (i : Instr)
  /-- `WR reg, v`. -/
  | wr (r : Reg) (v : Word)
  /-- `RD reg -> t`. -/
  | rd (r : Reg) (t : Nat)
  /-- `label:`. -/
  | label (l : Nat)
  /-- `BNZ t, mask, label`. -/
  | bnz (t : Nat) (mask : Word) (l : Nat)
  deriving DecidableEq, Repr

/-- A host program in the assembly of R78, the index of its next statement, and its temporaries, by number. -/
structure HostProgram where
  prog : List Stmt
  pc : Nat
  temps : List (Nat × Word)
  deriving DecidableEq, Repr

/-- One turn of the interleaving (R14, R90): which agent does what next. -/
inductive Event where
  /-- The host program executes its next statement. -/
  | host
  /-- The engine takes its step, if a command is pending (R90). -/
  | engine
  /-- The reset input (R139). -/
  | reset
  /-- A read on the register port, `width` bits at a byte offset (R80, R81). -/
  | read (width : Nat) (offset : BitVec 12)
  /-- A write on the register port (R80, R82). -/
  | write (width : Nat) (offset : BitVec 12) (v : Word)
  /-- The host reads `n` bytes of the external memory at once (R3, R12; log 12). -/
  | memRead (addr : Word) (n : Nat)
  /-- The host writes bytes of the external memory at once, the first at `addr` (R3; log 12). -/
  | memWrite (addr : Word) (bytes : List Byte)
  deriving DecidableEq, Repr

/-- What a host access gets back. -/
inductive Response where
  /-- The data of a register read (R81). -/
  | data (v : Word)
  /-- The normal response of a write. -/
  | done
  /-- The bus error response (R80). -/
  | busError
  /-- The bytes of a read of the external memory, in address order. -/
  | bytes (bs : List Byte)
  deriving DecidableEq, Repr

/-- Everything the spec gives the machine, then the model's own fields (`host` and below). BUSY is the view `busy` of
`pending` (R43) and irq the view `irq` (R45). -/
structure State where
  /-- W, H and DMAX (R6, R23). -/
  params : Params
  /-- CTRL.IRQ_EN (R24). -/
  irqEn : Bool
  /-- STATUS.PAL_COMPLETE (R25, R113). -/
  palComplete : Bool
  /-- STATUS.LUT_VALID (R25, R100). -/
  lutValid : Bool
  /-- STATUS.CANVAS_INIT (R25, R105). -/
  canvasInit : Bool
  /-- STATUS.ERRCODE (R25, R125). -/
  errCode : ErrCode
  /-- STATUS.LAST_OP (R25). -/
  lastOp : BitVec 4
  /-- ERR bits 5..0 (R26). -/
  err : BitVec 6
  /-- INT.DONE (R27). -/
  done : Bool
  /-- CMD_ARG.VALUE (R29). -/
  cmdArg : Byte
  /-- OUT_BASE (R30). -/
  outBase : Word
  /-- OUT_STRIDE.STRIDE (R31). -/
  outStride : BitVec 16
  /-- LUT_DIAM.D (R32). -/
  lutDiam : BitVec 12
  /-- CANVAS_PTR.X (R33). -/
  canvasX : BitVec 12
  /-- CANVAS_PTR.Y (R33). -/
  canvasY : BitVec 12
  /-- LUT_PTR.I (R35). -/
  lutI : BitVec 12
  /-- LUT_PTR.J (R35). -/
  lutJ : BitVec 12
  /-- PAL_COUNT (R37). -/
  palCount : BitVec 9
  /-- The written mask (R42). -/
  palMask : BitVec 256
  /-- The canvas memory (R39) by linear index y*W + x (R13); a cell that is not listed holds 0. -/
  canvas : List (Nat × Byte)
  /-- The LUT memory (R40) by linear index j*D + i (R13); a cell that is not listed holds 0. -/
  lut : List (Nat × Byte)
  /-- The palette memory (R41) by k; an entry that is not listed has not been written since reset. -/
  pal : List (Nat × Word)
  /-- The pending command (R43), with the MAP progress index (R44). -/
  pending : Option Pending
  /-- The external memory (R49): the bytes that something has written. A byte that is not listed holds a free value (log 3). -/
  mem : List Host.Cell
  /-- The host program (R78). The model's own field, log 8. -/
  host : HostProgram
  /-- The turns that are fixed, oldest first. The model's own field, log 5. -/
  events : List Event
  /-- The master port's replies that are fixed, oldest first (R51). The model's own field, log 6. -/
  replies : List BusReply
  /-- What the last host access got back. The model's own field, log 7. -/
  response : Option Response
  /-- The counter that the opaque free values are applied to. The model's own field, log 6. -/
  freeIdx : Nat
  /-- Host turns since the last free-running engine step, while a command was pending. The model's own field, log 5. -/
  waited : Nat
  deriving DecidableEq, Repr

/-- Why a step stops. None of these is an instruction's: the MBSA has no trap (R124). Each is a host action of which the
spec says nothing (R148, I17), and each is safe: the model stops where it could only guess. -/
inductive Fault where
  /-- A host access of the external memory passes 0xFFFFFFFF, the end of the space (R49).
  Raised by `hostMemRead` and `hostMemWrite`; safe. -/
  | outsideMemory (addr : Nat)
  /-- The host program branches to a label it does not have, so R78 gives it no position. Raised by `runStmt`; safe. -/
  | missingLabel (l : Nat)
  /-- The host program names a command with an operand above 4095, which R78 does not admit. Raised by `runStmt`; safe. -/
  | operandTooBig (i : Instr)
  deriving DecidableEq, Repr

/-- Why an instruction has no meaning. -/
inductive Refusal where
  /-- The instruction of this mnemonic has no meaning yet. Raised by an arm of `exec` alone, and no arm does; safe. -/
  | notModelled (mnemonic : String)
  deriving DecidableEq, Repr

/-- What a step or an instruction answers. -/
abbrev Answer := Host.Outcome State Fault Refusal

/-- The machine after reset (R139): every register at its reset value, no command pending, the three memories hidden
(log 2), nothing written in the external memory (log 3), reference parameters (log 1), and no host program, no turn and no reply
fixed (logs 5 to 8). -/
def State.reset : State where
  params := Params.reference
  irqEn := false
  palComplete := false
  lutValid := false
  canvasInit := false
  errCode := .ok
  lastOp := 0
  err := 0
  done := false
  cmdArg := 0
  outBase := 0
  outStride := 0
  lutDiam := 0
  canvasX := 0
  canvasY := 0
  lutI := 0
  lutJ := 0
  palCount := 0
  palMask := 0
  canvas := []
  lut := []
  pal := []
  pending := none
  mem := []
  host := ⟨[], 0, []⟩
  events := []
  replies := []
  response := none
  freeIdx := 0
  waited := 0

end Sys2Proof.Machine
end

