-- ==== Sys2Proof/Machine/Flags.lean ====
section
/-! DEFINITION. Every flag and code computation: the saturating sum, the error codes' numbers, the ERR bits, the STATUS
word, the written mask's count, and the interrupt output. -/

namespace Sys2Proof.Machine

/-- R11: `min(255, v)`, as an energy value. The sum is formed exactly before the clamp (R102). -/
def sat8 (v : Nat) : Byte := BitVec.ofNat 8 (min 255 v)

/-- The number of an error code (R125). -/
def ErrCode.bits : ErrCode → BitVec 8
  | .ok => 0x00
  | .illegalOpcode => 0x01
  | .reservedBits => 0x02
  | .noPalette => 0x03
  | .noClear => 0x04
  | .noLut => 0x05
  | .lutLocked => 0x06
  | .badDiameter => 0x07
  | .bounds => 0x08
  | .badStride => 0x09
  | .misaligned => 0x0A
  | .addrRange => 0x0B
  | .busError => 0x0C

/-- The code of an illegal word (R73, R74, R86). -/
def illegalCode : Illegal → ErrCode
  | .opcode => .illegalOpcode
  | .reservedBits => .reservedBits

/-- ERR bit 0, CMD_ERR (R26). -/
def errCmdErr : BitVec 6 := 0b000001
/-- ERR bit 1, CMD_OVERRUN (R26, R85). -/
def errCmdOverrun : BitVec 6 := 0b000010
/-- ERR bit 2, PAL_LOCKED (R26, R114). -/
def errPalLocked : BitVec 6 := 0b000100
/-- ERR bit 3, BUSY_ACCESS (R26, R83). -/
def errBusyAccess : BitVec 6 := 0b001000
/-- ERR bit 4, PORT_RANGE (R26, R101, R107). -/
def errPortRange : BitVec 6 := 0b010000
/-- ERR bit 5, NOT_INIT (R26, R107). -/
def errNotInit : BitVec 6 := 0b100000

/-- Hardware sets a sticky ERR bit (R26). -/
def State.setErr (bit : BitVec 6) (s : State) : State := { s with err := s.err ||| bit }

/-- STATUS.BUSY: 1 exactly when a command is pending (R43). -/
def State.busy (s : State) : Bool := s.pending.isSome

/-- The STATUS word (R25): LAST_OP in [19:16], ERRCODE in [15:8], CANVAS_INIT, LUT_VALID, PAL_COMPLETE and BUSY in
[3:0], reserved bits 0. -/
def statusWord (s : State) : Word :=
  (0 : BitVec 12) ++ s.lastOp ++ s.errCode.bits ++ (0 : BitVec 4) ++ BitVec.ofBool s.canvasInit
    ++ BitVec.ofBool s.lutValid ++ BitVec.ofBool s.palComplete ++ BitVec.ofBool s.busy

/-- The CTRL word (R24): IRQ_EN in bit 1; SOFT_RESET and the reserved bits read 0. -/
def ctrlWord (irqEn : Bool) : Word := (0 : BitVec 30) ++ BitVec.ofBool irqEn ++ (0 : BitVec 1)

/-- The interrupt output, a level: CTRL.IRQ_EN AND INT.DONE (R45, R129). -/
def State.irq (s : State) : Bool := s.irqEn && s.done

/-- The level of one interrupt line of the platform, as far as the MBSA drives it (R129). -/
def irqLineLevel (line : Nat) (s : State) : Bool := decide (line = Config.irqLine) && s.irq

/-- How many palette entries a mask marks as written (R37, R42). -/
def popcount (mask : BitVec 256) : Nat := (List.range 256).countP fun k => mask.getLsbD k

/-- The mask with entry k marked (R112). -/
def markWritten (mask : BitVec 256) (k : BitVec 8) : BitVec 256 := mask ||| BitVec.twoPow 256 k.toNat

end Sys2Proof.Machine
end

