-- ==== Sys2Proof/Machine/Ops.lean ====
section
/-! DEFINITION. The named operations over memories and registers, and the shared operations of the command lifecycle:
recording an error, accepting, rejecting and completing a command (R84 to R92). The MBSA takes no exception (R124); `reject`
and `complete` are its one way to record an error, and nothing has to be returned from (R130, R131). -/

namespace Sys2Proof.Machine

/-! ### Keyed lists: every memory is a list of (key, value) pairs with strictly rising keys -/

/-- The value listed under a key. -/
def findKey {α : Type} : List (Nat × α) → Nat → Option α
  | [], _ => none
  | (k, v) :: t, a => if k = a then some v else findKey t a

/-- The list with `v` under key `a`, the keys still rising. -/
def insertKey {α : Type} : List (Nat × α) → Nat → α → List (Nat × α)
  | [], a, v => [(a, v)]
  | (k, w) :: t, a, v =>
    if a < k then (a, v) :: (k, w) :: t
    else if a = k then (a, v) :: t
    else (k, w) :: insertKey t a v

/-- The list without key `a`. -/
def eraseKey {α : Type} : List (Nat × α) → Nat → List (Nat × α)
  | [], _ => []
  | (k, w) :: t, a => if k = a then eraseKey t a else (k, w) :: eraseKey t a

/-- Strictly rising keys: no key twice, and one order. -/
abbrev risingKeys {α : Type} (m : List (Nat × α)) : Prop := m.Pairwise fun p q => p.1 < q.1

/-! ### Cell memories (canvas and LUT): a cell that is not listed holds 0 -/

/-- The cell at a linear index. -/
def cellAt (m : List (Nat × Byte)) (k : Nat) : Byte := (findKey m k).getD 0

/-- Writing a cell; writing 0, what an unlisted cell holds, takes the entry out. -/
def setCell (m : List (Nat × Byte)) (k : Nat) (v : Byte) : List (Nat × Byte) :=
  if v = 0 then eraseKey m k else insertKey m k v

/-- The canonical form of a cell memory of `size` cells: keys rising and below `size`, no entry of 0. -/
abbrev cellsWf (size : Nat) (m : List (Nat × Byte)) : Prop :=
  risingKeys m ∧ ∀ e ∈ m, e.1 < size ∧ e.2 ≠ 0

/-! ### The external memory (R49): the bytes that something has written are listed -/

/-- What has been written to a byte of the external memory, if anything has (log 3). -/
def readByte (mem : List Host.Cell) (a : Nat) : Option Byte := findKey mem a

/-- One byte written. -/
def writeByte (mem : List Host.Cell) (a : Nat) (v : Byte) : List Host.Cell := insertKey mem a v

/-- What a byte of the external memory holds: what was last written to it, or else a free value of its address (log 3), so that every
read of it before the first write gives the same. -/
def heldByte (mem : List Host.Cell) (a : Nat) : Byte := (readByte mem a).getD (Config.initialByte a)

/-- `MemRead(a, n)` (R12): the `n` bytes from `a` upwards. -/
def readBytes (mem : List Host.Cell) (a : Nat) : Nat → List Byte
  | 0 => []
  | n + 1 => heldByte mem a :: readBytes mem (a + 1) n

/-- The bytes written from `a` upwards. -/
def writeBytes (mem : List Host.Cell) (a : Nat) : List Byte → List Host.Cell
  | [] => mem
  | b :: bs => writeBytes (writeByte mem a b) (a + 1) bs

/-- The four bytes of a word, lowest address first: the master port is little-endian (R52). -/
def wordBytes (v : Word) : List Byte :=
  [v.extractLsb' 0 8, v.extractLsb' 8 8, v.extractLsb' 16 8, v.extractLsb' 24 8]

/-- The four bytes that `MemWrite(addr, 4, v)` sets (R52). -/
def writeWord (mem : List Host.Cell) (addr : Nat) (v : Word) : List Host.Cell := writeBytes mem addr (wordBytes v)

/-- The canonical form of the external memory: addresses rising, within the 32-bit space (R49). -/
abbrev Memory.wf (mem : List Host.Cell) : Prop := risingKeys mem ∧ ∀ c ∈ mem, c.1 < 2 ^ 32

/-! ### The master port's answer -/

/-- Whether the write's four bytes have changed: with `ok` they have, with `err` they may or may not (R51). -/
def landed : BusReply → Bool
  | .ok => true
  | .err b => b

/-- The reply to the write in progress (R51): the next one State fixes, or else a free one (log 6). -/
def nextReply (s : State) : BusReply :=
  match s.replies with
  | r :: _ => r
  | [] => Config.freeReply s.freeIdx

/-- The reply is used up. -/
def dropReply (s : State) : State :=
  match s.replies with
  | _ :: rs => { s with replies := rs }
  | [] => { s with freeIdx := s.freeIdx + 1 }

/-! ### The command lifecycle -/

/-- The host access in progress gets this response (R80, R81). -/
def respond (r : Response) (s : State) : State := { s with response := some r }

/-- R85: the word written while a command is pending is dropped, and ERR.CMD_OVERRUN is set. -/
def overrun (s : State) : State := s.setErr errCmdOverrun

/-- R87: the command ends at once with code `c`; `op` is the word's opcode field. -/
def reject (c : ErrCode) (op : BitVec 4) (s : State) : State :=
  { s with err := s.err ||| errCmdErr, errCode := c, lastOp := op, done := true }

/-- The copies taken at acceptance (R89), with MAP's progress index at 0 (R44, R119). -/
def capture (i : Instr) (s : State) : Pending := ⟨i, s.cmdArg, s.outBase, s.outStride, 0⟩

/-- R88: the command becomes the pending one. INT.DONE is not changed. -/
def accept (i : Instr) (s : State) : State :=
  { s with pending := some (capture i s), errCode := .ok, lastOp := i.opcode }

/-- R84, second half: the outcome of the checks, `.ok` when the command may run (R86). -/
def issue (i : Instr) (check : ErrCode) (s : State) : State :=
  if check = .ok then accept i s else reject check i.opcode s

/-- R91: the pending command ends with code `c`. -/
def complete (c : ErrCode) (s : State) : State :=
  { s with
    pending := none
    errCode := c
    err := if c = .ok then s.err else s.err ||| errCmdErr
    done := true }

/-- A command's two halves. With no command pending it is being issued: `check` is the first failing check of R86 and the
command is rejected or accepted (R84). While the command itself is pending it is the engine's turn on it, and `effect` is the
engine's step (R90) with the copies of R89. Beside another pending command it is an overrun (R85; DESIGN CHOICE, log 10). A CMD
write while a command is pending, the same one or another, never comes here: `writeCmd` drops its word undecoded. -/
def command (i : Instr) (check : ErrCode) (effect : Pending → State → State) (s : State) : Answer :=
  match s.pending with
  | none => .next (issue i check s)
  | some p => if p.instr = i then .next (effect p s) else .next (overrun s)

end Sys2Proof.Machine
end

