-- ==== Sys2Proof/Machine/Operands.lean ====
section
/-! DEFINITION. Every operand form: linear indices (R13), register fields, the checks on diameters, positions, strides and
buffers (R98, R104, R108, R116), and where a pixel goes and what colour it has (R117, R118). -/

namespace Sys2Proof.Machine

/-- Canvas cell (x, y) is at linear index y*W + x (R13). -/
def canvasIndex (w x y : Nat) : Nat := y * w + x

/-- LUT cell (i, j) is at linear index j*D + i (R13). -/
def lutIndex (d i j : Nat) : Nat := j * d + i

/-- `canvas[x, y]` (R12). -/
def canvasCell (s : State) (x y : Nat) : Byte := cellAt s.canvas (canvasIndex s.params.w x y)

/-- `lut[i, j]` of the current LUT, whose diameter is LUT_DIAM (R12, R40). -/
def lutCell (s : State) (i j : Nat) : Byte := cellAt s.lut (lutIndex s.lutDiam.toNat i j)

/-- `pal[k]` (R12). An entry that has not been written is hidden by every rule (R38, R41); log 2. -/
def palEntry (pal : List (Nat × Word)) (k : Nat) : Word := (findKey pal k).getD 0

/-- R98. -/
def diamOk (p : Params) (diam : Nat) : Bool :=
  decide (1 ≤ diam) && decide (diam ≤ p.dmax) && decide (diam ≤ p.w) && decide (diam ≤ p.h)

/-- R104. -/
def cellIn (p : Params) (x y : Nat) : Bool := decide (x < p.w) && decide (y < p.h)

/-- R108, with D = LUT_DIAM. The sums are exact. -/
def splatFits (p : Params) (d x y : Nat) : Bool := decide (x + d ≤ p.w) && decide (y + d ≤ p.h)

/-- R116, first check: the rows do not overlap. -/
def strideOk (p : Params) (stride : BitVec 16) : Bool := decide (p.w ≤ stride.toNat)

/-- R116, second check: BASE[1:0] = 0. -/
def baseAligned (base : Word) : Bool := decide (base.extractLsb' 0 2 = 0)

/-- R116, third check: the last byte MAP writes is at most 0xFFFFFFFF. The sums are exact. -/
def rangeOk (p : Params) (base : Word) (stride : BitVec 16) : Bool :=
  decide (base.toNat + 4 * ((p.h - 1) * stride.toNat + p.w) ≤ 2 ^ 32)

/-- R117: the output address of pixel (x, y). -/
def pixelAddr (base : Word) (stride : BitVec 16) (x y : Nat) : Nat := base.toNat + 4 * (y * stride.toNat + x)

/-- R118: the colour of pixel (x, y). -/
def pixelColour (s : State) (x y : Nat) : Word := palEntry s.pal (canvasCell s x y).toNat

/-- The address of the pixel a pending MAP writes next: x = n mod W, y = n // W (R121). -/
def nextPixelAddr (p : Pending) (s : State) : Nat :=
  pixelAddr p.base p.stride (p.index % s.params.w) (p.index / s.params.w)

/-- The colour of that pixel. -/
def nextPixelColour (p : Pending) (s : State) : Word :=
  pixelColour s (p.index % s.params.w) (p.index / s.params.w)

/-- The master-port write of the next pixel with its reply (R51): the four bytes change unless the reply says they did
not, and the reply is used up. -/
def putPixel (p : Pending) (s : State) : State :=
  { dropReply s with
    mem := if landed (nextReply s) then writeWord s.mem (nextPixelAddr p s) (nextPixelColour p s) else s.mem }

/-- Bits [11:0] of a pointer register's value: X or I (R33, R35). -/
def ptrLow (v : Word) : BitVec 12 := v.extractLsb' 0 12

/-- Bits [23:12]: Y or J (R33, R35). -/
def ptrHigh (v : Word) : BitVec 12 := v.extractLsb' 12 12

/-- The value a pointer register reads, reserved bits 0 (R33, R35). -/
def ptrWord (lo hi : BitVec 12) : Word := (0 : BitVec 8) ++ hi ++ lo

end Sys2Proof.Machine
end

