-- ==== Sys2Proof/Machine/Canvas.lean ====
section
/-! DEFINITION. The energy canvas: CLEAR and ADDSAT (42_energy_canvas.md). -/

namespace Sys2Proof.Machine

/-- R102: `canvas[x, y] <- sat8(canvas[x, y] + v)` on a canvas of width `w`, the sum exact. -/
def addsatCell (w : Nat) (canvas : List (Nat × Byte)) (x y : Nat) (v : Byte) : List (Nat × Byte) :=
  setCell canvas (canvasIndex w x y) (sat8 ((cellAt canvas (canvasIndex w x y)).toNat + v.toNat))

/-- The canvas with every cell 0, in its canonical form (R105). -/
def clearedCanvas : List (Nat × Byte) := []

/-- R86, case CLEAR. -/
def checkClear (s : State) : ErrCode := if s.palComplete = false then .noPalette else .ok

/-- R105. -/
def execClear (s : State) : Answer :=
  command .clear (checkClear s) (fun _ t => complete .ok { t with canvas := clearedCanvas, canvasInit := true }) s

/-- R86, case ADDSAT. -/
def checkAddsat (x y : Nat) (s : State) : ErrCode :=
  if s.palComplete = false then .noPalette
  else if s.canvasInit = false then .noClear
  else if cellIn s.params x y = false then .bounds
  else .ok

/-- R106: the engine uses the copy of CMD_ARG.VALUE. -/
def execAddsat (x y : Nat) (s : State) : Answer :=
  command (.addsat x y) (checkAddsat x y s)
    (fun p t => complete .ok { t with canvas := addsatCell t.params.w t.canvas x y p.value }) s

end Sys2Proof.Machine
end

