-- ==== Sys2Proof/Machine/Compositor.lean ====
section
/-! DEFINITION. The compositor: SPLAT (43_compositor.md). -/

namespace Sys2Proof.Machine

/-- One row of the splat: for i in 0 .. D-1, add `row i` into canvas cell (x + i, y) (R109). -/
def splatRow (w d x y : Nat) (row : Nat → Byte) (canvas : List (Nat × Byte)) : List (Nat × Byte) :=
  (List.range d).foldl (fun c i => addsatCell w c (x + i) y (row i)) canvas

/-- R109: for j in 0 .. D-1, for i in 0 .. D-1, add lut[i, j] into canvas cell (X + i, Y + j). -/
def splatted (w d x y : Nat) (lut canvas : List (Nat × Byte)) : List (Nat × Byte) :=
  (List.range d).foldl (fun c j => splatRow w d x (y + j) (fun i => cellAt lut (lutIndex d i j)) c) canvas

/-- R86, case SPLAT. -/
def checkSplat (x y : Nat) (s : State) : ErrCode :=
  if s.palComplete = false then .noPalette
  else if s.canvasInit = false then .noClear
  else if s.lutValid = false then .noLut
  else if splatFits s.params s.lutDiam.toNat x y = false then .bounds
  else .ok

/-- R109, with D = LUT_DIAM. -/
def execSplat (x y : Nat) (s : State) : Answer :=
  command (.splat x y) (checkSplat x y s)
    (fun _ t => complete .ok { t with canvas := splatted t.params.w t.lutDiam.toNat x y t.lut t.canvas }) s

end Sys2Proof.Machine
end

