-- ==== Sys2Proof/Machine/Control.lean ====
section
/-! DEFINITION. NOP (40_command_protocol.md section 4). -/

namespace Sys2Proof.Machine

/-- R94: NOP has no check but its reserved bits, which the decoder has looked at; its engine step is `complete(0x00)`. -/
def execNop (s : State) : Answer := command .nop .ok (fun _ t => complete .ok t) s

end Sys2Proof.Machine
end

