-- ==== Sys2Proof/Machine/Lut.lean ====
section
/-! DEFINITION. The radial falloff table: BUILD_LUT (41_falloff_table.md). -/

namespace Sys2Proof.Machine

/-- R95: the radius of a diameter, by floor division. -/
def radius (d : Nat) : Nat := d / 2

/-- R95: the squared distance of cell (i, j) from the centre (r, r), exact. -/
def sqDist (r i j : Nat) : Nat := ((i : Int) - r).natAbs ^ 2 + ((j : Int) - r).natAbs ^ 2

/-- R96: the energy at squared distance `sq`, exact; the source's 0.009 is 9/1000 (I22), and the centre is 255 (C1). -/
def falloff (r sq : Nat) : Nat := if sq = 0 then 255 else min 255 (1000 * r / (9 * sq))

/-- The energy of LUT cell (i, j) for diameter `d` (R100). -/
def lutValue (d i j : Nat) : Byte := BitVec.ofNat 8 (falloff (radius d) (sqDist (radius d) i j))

/-- R100: the table of diameter `d`, row by row, in the canonical form of a cell memory. A cell outside d×d is "not part of
the current LUT"; it is not listed (log 2). -/
def builtLut (d : Nat) : List (Nat × Byte) :=
  (List.range (d * d)).filterMap fun k =>
    if lutValue d (k % d) (k / d) = 0 then none else some (k, lutValue d (k % d) (k / d))

/-- R86, case BUILD_LUT: the lock (R99) comes before the diameter (R98). -/
def checkBuildLut (diam : Nat) (s : State) : ErrCode :=
  if s.lutValid = true then .lutLocked
  else if diamOk s.params diam = false then .badDiameter
  else .ok

/-- R100. -/
def execBuildLut (diam : Nat) (s : State) : Answer :=
  command (.buildLut diam) (checkBuildLut diam s)
    (fun _ t => complete .ok { t with lut := builtLut diam, lutDiam := BitVec.ofNat 12 diam, lutValid := true }) s

end Sys2Proof.Machine
end

