-- ==== Sys2Proof/Machine/Mapper.lean ====
section
/-! DEFINITION. The colour mapper: MAP (44_palette_mapper.md). -/

namespace Sys2Proof.Machine

/-- R86, case MAP: BASE and STRIDE are the registers as they stand at the write. -/
def checkMap (s : State) : ErrCode :=
  if s.palComplete = false then .noPalette
  else if s.canvasInit = false then .noClear
  else if strideOk s.params s.outStride = false then .badStride
  else if baseAligned s.outBase = false then .misaligned
  else if rangeOk s.params s.outBase s.outStride = false then .addrRange
  else .ok

/-- R121, one engine step: pixel n is written; `err` ends the MAP with BUS_ERROR (R120), the last `ok` completes it, and any
other `ok` leaves the next pixel to the next step (R119). The write and its reply are one event (DEDUCED, log 11). -/
def mapPixel (p : Pending) (s : State) : State :=
  if nextReply s = .ok then
    if p.index + 1 = s.params.w * s.params.h then complete .ok (putPixel p s)
    else { putPixel p s with pending := some { p with index := p.index + 1 } }
  else complete .busError (putPixel p s)

/-- R121. -/
def execMap (s : State) : Answer := command .map (checkMap s) mapPixel s

end Sys2Proof.Machine
end

