-- ==== Sys2Proof/Machine/Dispatch.lean ====
section
/-! DEFINITION. One arm per command, each a direct call of its meaning. -/

namespace Sys2Proof.Machine

/-- The meaning of a command: with no command pending, its issue (R84, R86 to R89); with a command pending, the engine's
step on it (R90). -/
def exec (i : Instr) (s : State) : Host.Outcome State Fault Refusal :=
  match i with
  | .nop => Sys2Proof.Machine.execNop s
  | .clear => Sys2Proof.Machine.execClear s
  | .buildLut diam => Sys2Proof.Machine.execBuildLut diam s
  | .splat x y => Sys2Proof.Machine.execSplat x y s
  | .addsat x y => Sys2Proof.Machine.execAddsat x y s
  | .map => Sys2Proof.Machine.execMap s

end Sys2Proof.Machine
end

