-- ==== Sys2Proof/Machine/Reset.lean ====
section
/-! DEFINITION. Reset: the reset input and the soft reset have one effect (R139, R140). -/

namespace Sys2Proof.Machine

/-- R140: a MAP that a reset stops may have one write outstanding, and its word "may or may not be written". The reply that
the write would have got says which (log 6). No other pending command has done anything yet. -/
def abandonPending (s : State) : State :=
  match s.pending with
  | some p => if p.instr = .map then putPixel p s else s
  | none => s

/-- R139: every register and hidden state at its reset value, no command pending. The build parameters stay (R23), the
external memory stays but for an outstanding MAP write, and so does what is not the MBSA's: the host program and the inputs. -/
def resetMachine (s : State) : State :=
  let t := abandonPending s
  { State.reset with
    params := t.params
    mem := t.mem
    host := t.host
    events := t.events
    replies := t.replies
    response := t.response
    freeIdx := t.freeIdx
    waited := t.waited }

end Sys2Proof.Machine
end

