-- ==== Sys2Proof/Machine/Registers.lean ====
section
/-! DEFINITION. The register port's map and its accesses that issue no command (R20 to R38, R80 to R83): what every register
reads, and what a write to every register but CMD does. -/

namespace Sys2Proof.Machine

/-- ID's constant (R21). -/
def idValue : Word := 0x4D425341

/-- CMDSET_VERSION (R22). -/
def cmdsetVersion : BitVec 16 := 0x0001

/-- The register an access reaches (R20), or none where the access gets a bus error (R80): a width other than 32 bits,
an offset that is no multiple of 4, or an unmapped offset. -/
def regAt (width : Nat) (offset : BitVec 12) : Option Reg :=
  if width ≠ 32 then none
  else if offset.extractLsb' 0 2 ≠ 0 then none
  else if offset.extractLsb' 10 2 = 1 then some (.pal (offset.extractLsb' 2 8))
  else
    match offset.toNat with
    | 0x000 => some .id
    | 0x004 => some .version
    | 0x008 => some .canvasW
    | 0x00C => some .canvasH
    | 0x010 => some .lutDmax
    | 0x014 => some .ctrl
    | 0x018 => some .status
    | 0x01C => some .err
    | 0x020 => some .int
    | 0x024 => some .cmd
    | 0x028 => some .cmdArg
    | 0x02C => some .outBase
    | 0x030 => some .outStride
    | 0x034 => some .lutDiam
    | 0x038 => some .canvasPtr
    | 0x03C => some .canvasData
    | 0x040 => some .lutPtr
    | 0x044 => some .lutData
    | 0x048 => some .palCount
    | _ => none

/-- The byte offset of a register (R20). -/
def Reg.offset : Reg → BitVec 12
  | .id => 0x000
  | .version => 0x004
  | .canvasW => 0x008
  | .canvasH => 0x00C
  | .lutDmax => 0x010
  | .ctrl => 0x014
  | .status => 0x018
  | .err => 0x01C
  | .int => 0x020
  | .cmd => 0x024
  | .cmdArg => 0x028
  | .outBase => 0x02C
  | .outStride => 0x030
  | .lutDiam => 0x034
  | .canvasPtr => 0x038
  | .canvasData => 0x03C
  | .lutPtr => 0x040
  | .lutData => 0x044
  | .palCount => 0x048
  | .pal k => (1 : BitVec 2) ++ k ++ (0 : BitVec 2)

/-- The address at which the host sees a register: the platform puts the window at REG_BASE (R48, R57). -/
def hostAddress (r : Reg) : Nat := Config.regBase + r.offset.toNat

/-- R107: a read of CANVAS_DATA, its three refusals in this order (R128). -/
def readCanvasData (s : State) : Word × State :=
  if s.busy = true then (0, s.setErr errBusyAccess)
  else if cellIn s.params s.canvasX.toNat s.canvasY.toNat = false then (0, s.setErr errPortRange)
  else if s.canvasInit = false then (0, s.setErr errNotInit)
  else ((canvasCell s s.canvasX.toNat s.canvasY.toNat).setWidth 32, s)

/-- R101: a read of LUT_DATA. -/
def readLutData (s : State) : Word × State :=
  if s.busy = true then (0, s.setErr errBusyAccess)
  else if s.lutValid = false ∨ s.lutDiam.toNat ≤ s.lutI.toNat ∨ s.lutDiam.toNat ≤ s.lutJ.toNat then
    (0, s.setErr errPortRange)
  else ((lutCell s s.lutI.toNat s.lutJ.toNat).setWidth 32, s)

/-- R81: the value of a register, reserved bits 0, and the state after the read. Only the two data ports change it (R34). -/
def readReg (r : Reg) (s : State) : Word × State :=
  match r with
  | .id => (idValue, s)
  | .version => (cmdsetVersion.setWidth 32, s)
  | .canvasW => ((BitVec.ofNat 13 s.params.w).setWidth 32, s)
  | .canvasH => ((BitVec.ofNat 13 s.params.h).setWidth 32, s)
  | .lutDmax => ((BitVec.ofNat 12 s.params.dmax).setWidth 32, s)
  | .ctrl => (ctrlWord s.irqEn, s)
  | .status => (statusWord s, s)
  | .err => (s.err.setWidth 32, s)
  | .int => ((BitVec.ofBool s.done).setWidth 32, s)
  | .cmd => (0, s)
  | .cmdArg => (s.cmdArg.setWidth 32, s)
  | .outBase => (s.outBase, s)
  | .outStride => (s.outStride.setWidth 32, s)
  | .lutDiam => (s.lutDiam.setWidth 32, s)
  | .canvasPtr => (ptrWord s.canvasX s.canvasY, s)
  | .canvasData => readCanvasData s
  | .lutPtr => (ptrWord s.lutI s.lutJ, s)
  | .lutData => readLutData s
  | .palCount => (s.palCount.setWidth 32, s)
  | .pal k => (if s.palMask.getLsbD k.toNat then palEntry s.pal k.toNat else 0, s)

/-- R82, CTRL: bit 0 resets and ignores bit 1; otherwise IRQ_EN takes bit 1 (R24). -/
def writeCtrl (v : Word) (s : State) : State :=
  if v.getLsbD 0 then resetMachine s else { s with irqEn := v.getLsbD 1 }

/-- R82, ERR: a written 1 clears its bit, a written 0 leaves it (R19, R26). -/
def writeErr (v : Word) (s : State) : State := { s with err := s.err &&& ~~~(v.extractLsb' 0 6) }

/-- R82, INT: a written 1 clears DONE (R27). -/
def writeInt (v : Word) (s : State) : State := if v.getLsbD 0 then { s with done := false } else s

/-- The palette write that is taken (R112), and PAL_COMPLETE at the 256th distinct entry (R113). -/
def storePalette (k : BitVec 8) (v : Word) (s : State) : State :=
  { s with
    pal := insertKey s.pal k.toNat v
    palMask := markWritten s.palMask k
    palCount := BitVec.ofNat 9 (popcount (markWritten s.palMask k))
    palComplete := s.palComplete || decide (popcount (markWritten s.palMask k) = 256) }

/-- A host write to PAL[k]: dropped once the palette is complete (R114), taken before (R112). -/
def writePalette (k : BitVec 8) (v : Word) (s : State) : State :=
  if s.palComplete = true then s.setErr errPalLocked else storePalette k v s

/-- R82: a host write to a register other than CMD. A write to a read-only register does nothing (R19). CMD's arm is not
reached: `writeReg` issues the word. -/
def writePlain (r : Reg) (v : Word) (s : State) : State :=
  match r with
  | .ctrl => writeCtrl v s
  | .err => writeErr v s
  | .int => writeInt v s
  | .cmdArg => { s with cmdArg := v.extractLsb' 0 8 }
  | .outBase => { s with outBase := v }
  | .outStride => { s with outStride := v.extractLsb' 0 16 }
  | .canvasPtr => { s with canvasX := ptrLow v, canvasY := ptrHigh v }
  | .lutPtr => { s with lutI := ptrLow v, lutJ := ptrHigh v }
  | .pal k => writePalette k v s
  | .id | .version | .canvasW | .canvasH | .lutDmax | .status | .cmd | .lutDiam | .canvasData | .lutData | .palCount => s

end Sys2Proof.Machine
end

