-- ==== Sys2Proof/Machine/Port.lean ====
section
/-! DEFINITION. The register port's accesses, the issue of a command (R84), the engine's turn (R90), and the host's accesses
of the external memory (R3). -/

namespace Sys2Proof.Machine

/-- R84: a host write of a word to CMD. While a command is pending the word is dropped undecoded (R85); an illegal word is
rejected (R73, R74, R87); a command is issued. -/
def writeCmd (w : Word) (s : State) : Answer :=
  if s.busy = true then .next (overrun s)
  else
    match decode w with
    | .error e => .next (reject (illegalCode e) (opField w) s)
    | .ok i => exec i s

/-- R82: a host write to a register. -/
def writeReg (r : Reg) (v : Word) (s : State) : Answer :=
  if r = .cmd then writeCmd v s else .next (writePlain r v s)

/-- A read of the register port (R80, R81). -/
def portRead (width : Nat) (offset : BitVec 12) (s : State) : State :=
  match regAt width offset with
  | none => respond .busError s
  | some r => respond (.data (readReg r s).1) (readReg r s).2

/-- A write of the register port (R80, R82). A dropped word or entry gets the normal response too (R85, R114). -/
def portWrite (width : Nat) (offset : BitVec 12) (v : Word) (s : State) : Answer :=
  match regAt width offset with
  | none => .next (respond .busError s)
  | some r => writeReg r v (respond .done s)

/-- R90: the engine has a step only while a command is pending, and it is that command's. -/
def engineTurn (s : State) : Answer :=
  match s.pending with
  | none => .next s
  | some p => exec p.instr s

/-- The host reads `n` bytes of the external memory (R3, R12). A byte that nothing has written gives a free value (log 3). The whole
read is one turn, also where it is wider than the 32 bits that R55 makes atomic (DESIGN CHOICE, log 12). -/
def hostMemRead (addr : Word) (n : Nat) (s : State) : Answer :=
  if 2 ^ 32 < addr.toNat + n then .fault (.outsideMemory addr.toNat)
  else .next (respond (.bytes (readBytes s.mem addr.toNat n)) s)

/-- The host writes bytes of the external memory (R3), all of them in one turn, also where they are more than the 32 bits that R55
makes atomic (DESIGN CHOICE, log 12). -/
def hostMemWrite (addr : Word) (bytes : List Byte) (s : State) : Answer :=
  if 2 ^ 32 < addr.toNat + bytes.length then .fault (.outsideMemory addr.toNat)
  else .next (respond .done { s with mem := writeBytes s.mem addr.toNat bytes })

end Sys2Proof.Machine
end

