-- ==== Sys2Proof/Machine/Assembly.lean ====
section
/-! DEFINITION. The host assembly (R78), its pseudo-instructions (R79), and the host's boot and frame sequences in it
(R143, R144). The host program runs outside the MBSA; it reaches the MBSA only through register accesses. -/

namespace Sys2Proof.Machine

/-- The value of a host temporary; one that nothing has set holds 0 (log 8). -/
def tempValue (h : HostProgram) (t : Nat) : Word := (findKey h.temps t).getD 0

/-- The position of a label: the index of its first `label:` statement. -/
def labelIndex (l : Nat) (prog : List Stmt) : Option Nat := prog.findIdx? fun st => decide (st = .label l)

/-- The host program has executed its last statement. -/
def hostFinished (s : State) : Bool := decide (s.host.prog.length ≤ s.host.pc)

/-- R156: the run has ended when the host program is through, no further turn is fixed, and BUSY = 0. -/
def runEnded (s : State) : Bool := hostFinished s && s.events.isEmpty && !s.busy

/-- The host program goes on to its next statement. -/
def advanceHost (s : State) : State := { s with host := { s.host with pc := s.host.pc + 1 } }

/-- A temporary takes a value. -/
def setTemp (t : Nat) (v : Word) (s : State) : State :=
  { s with host := { s.host with temps := insertKey s.host.temps t v } }

/-- R78: one statement, the position already past it. A register statement is a 32-bit access of that register. -/
def runStmt (st : Stmt) (s : State) : Answer :=
  match st with
  | .cmd i => if i.wf then writeReg .cmd (encode i) (respond .done s) else .fault (.operandTooBig i)
  | .wr r v => writeReg r v (respond .done s)
  | .rd r t => .next (setTemp t (readReg r s).1 (respond (.data (readReg r s).1) (readReg r s).2))
  | .label _ => .next s
  | .bnz t mask l =>
    if tempValue s.host t &&& mask ≠ 0 then
      match labelIndex l s.host.prog with
      | some k => .next { s with host := { s.host with pc := k } }
      | none => .fault (.missingLabel l)
    else .next s

/-- The host program executes its next statement, if it has one. -/
def hostTurn (s : State) : Answer :=
  match s.host.prog[s.host.pc]? with
  | none => .next s
  | some st => runStmt st (advanceHost s)

/-! ### Pseudo-instructions (R79) -/

/-- `ADDSAT x, y, v`. -/
def pseudoAddsat (x y : Nat) (v : Word) : List Stmt := [.wr .cmdArg v, .cmd (.addsat x y)]

/-- `MAP base, stride`. -/
def pseudoMap (base stride : Word) : List Stmt := [.wr .outBase base, .wr .outStride stride, .cmd .map]

/-- `WAIT`, with the label and the temporary it uses: spin until STATUS.BUSY = 0. -/
def pseudoWait (l t : Nat) : List Stmt := [.label l, .rd .status t, .bnz t 0x1 l]

/-- `LOADPAL p0, ..., p255`, in ascending k. -/
def pseudoLoadPal (p : Nat → Word) : List Stmt := (List.range 256).map fun k => .wr (.pal (BitVec.ofNat 8 k)) (p k)

/-- The word `(y << 12) OR x` of RDCV and RDLUT (R79). The rule gives x and y no range, and an x above 4095 reaches the bits of y;
of a number that does not fit 32 bits the low 32 are written (DESIGN CHOICE, log 8). -/
def pointerOperand (x y : Nat) : Word := BitVec.ofNat 32 ((y <<< 12) ||| x)

/-- `RDCV x, y -> t`. -/
def pseudoReadCanvas (x y t : Nat) : List Stmt := [.wr .canvasPtr (pointerOperand x y), .rd .canvasData t]

/-- `RDLUT i, j -> t`. -/
def pseudoReadLut (i j t : Nat) : List Stmt := [.wr .lutPtr (pointerOperand i j), .rd .lutData t]

/-- `ACKALL`. -/
def pseudoAckAll : List Stmt := [.wr .err 0x3F, .wr .int 0x1]

/-! ### Host sequences -/

/-- R143, steps 2 to 4: load the palette, build the LUT and wait, set the output buffer. Uses label 0. -/
def bootProgram (p : Nat → Word) (diam : Nat) (base stride : Word) (t : Nat) : List Stmt :=
  pseudoLoadPal p ++ [.cmd (.buildLut diam)] ++ pseudoWait 0 t ++ [.wr .outBase base, .wr .outStride stride]

/-- R111: one SPLAT per ball in insertion order, each with its WAIT, with labels from `l` upwards. -/
def compositeProgram (t : Nat) : Nat → List (Nat × Nat) → List Stmt
  | _, [] => []
  | l, (x, y) :: balls => .cmd (.splat x y) :: (pseudoWait l t ++ compositeProgram t (l + 1) balls)

/-- R144: one frame, the host's own Advance and Present left out: CLEAR, the SPLATs, MAP, each with its WAIT. -/
def frameProgram (balls : List (Nat × Nat)) (t : Nat) : List Stmt :=
  .cmd .clear :: (pseudoWait 1 t ++ compositeProgram t 3 balls ++ .cmd .map :: pseudoWait 2 t)

end Sys2Proof.Machine
end

