-- ==== Sys2Proof/Machine/Turns.lean ====
section
/-! DEFINITION. Whose turn it is: the interleaving of host and engine (R14, R90, R93). -/

namespace Sys2Proof.Machine

/-- One fixed turn. -/
def runEvent (e : Event) (s : State) : Answer :=
  match e with
  | .host => hostTurn s
  | .engine => engineTurn s
  | .reset => .next (resetMachine s)
  | .read width offset => .next (portRead width offset s)
  | .write width offset v => portWrite width offset v s
  | .memRead addr n => hostMemRead addr n s
  | .memWrite addr bytes => hostMemWrite addr bytes s

/-- In free running, with a command pending: the engine steps when the host is through, or has had as many turns as the
free delay gives it. The delay is any finite number (R93, weak fairness; log 5). -/
def engineDue (s : State) : Bool := hostFinished s || decide (Config.freeDelay s.freeIdx ≤ s.waited)

/-- The engine takes a free-running turn: the next one has a delay of its own. -/
def nextDelay (s : State) : State := { s with freeIdx := s.freeIdx + 1, waited := 0 }

/-- The host takes a free-running turn while the engine waits. -/
def countWait (s : State) : State := { s with waited := s.waited + 1 }

/-- No turn is fixed: with a command pending, engine or host in an open order; with none, the host program, or nothing at
all when it is through (R138). -/
def runFree (s : State) : Answer :=
  if s.busy = true then
    if engineDue s = true then engineTurn (nextDelay s) else hostTurn (countWait s)
  else hostTurn s

/-- The turn is taken off the list. -/
def dropEvent (s : State) : State := { s with events := s.events.tail }

/-- One step of the machine. -/
def turn (s : State) : Answer :=
  match s.events with
  | [] => runFree s
  | e :: _ => runEvent e (dropEvent s)

end Sys2Proof.Machine
end

