-- ==== Sys2Proof/Machine/Step.lean ====
section
/-! DEFINITION. One step, and where a command word is placed so that the next step issues it. -/

namespace Sys2Proof.Machine

/-- One atomic event of the machine (R14). -/
def step (s : State) : Host.Outcome State Fault Refusal := turn s

/-- The state in which the next step writes this word to CMD while no command is pending. The MBSA fetches no instruction
(R65): a command is the value of one register write (R28), so the word is put into a CMD write that comes next. A pending
command is taken out, since a word written while it is there would be dropped (R85). Log 9. -/
def State.withFetchWord (s : State) (nbits w : Nat) : State :=
  { s with
    pending := none
    events := .write 32 Reg.cmd.offset (BitVec.ofNat 32 (w % 2 ^ min nbits 32)) :: s.events }

end Sys2Proof.Machine
end

