-- ==== Sys2Proof/Safety.lean ====
section
/-! DEFINITION. The terms claims use: which turn comes next and what it does, the invariant of the machine, and a command
issued and performed with nothing between. -/

namespace Sys2Proof.Machine

/-! ### What the next step is -/

/-- The state in which `e` is the next turn and `s` is what that turn finds. Every state with a turn fixed has this form. -/
def before (e : Event) (s : State) : State := { s with events := e :: s.events }

/-- `n` steps, stopping at the first that does not answer a next state: the host's own run of the machine. -/
def runSteps (n : Nat) (s : State) : Answer := Sys2Proof.core.run n s

/-- The next step is the engine's, on the pending command (R90). -/
def engineMoves (s : State) : Bool :=
  match s.events with
  | [] => s.busy && engineDue s
  | .engine :: _ => s.busy
  | _ => false

/-- The next step is the host program's. -/
def hostMoves (s : State) : Bool :=
  match s.events with
  | [] => !(s.busy && engineDue s)
  | .host :: _ => true
  | _ => false

/-- The register write that a host statement is (R78). -/
def Stmt.writes : Stmt → Option (Reg × Word)
  | .cmd i => if i.wf then some (.cmd, encode i) else none
  | .wr r v => some (r, v)
  | .rd _ _ => none
  | .label _ => none
  | .bnz _ _ _ => none

/-- The register and the value that the next step writes, if it is a register write. -/
def writesNow (s : State) : Option (Reg × Word) :=
  match s.events with
  | .write width offset v :: _ => (regAt width offset).map fun r => (r, v)
  | _ => if hostMoves s then s.host.prog[s.host.pc]?.bind Stmt.writes else none

/-- The next step is a reset: the reset input (R139), or a write to CTRL with bit 0 = 1 (R140). -/
def resetsNow (s : State) : Prop :=
  s.events.head? = some .reset ∨ ∃ v, writesNow s = some (.ctrl, v) ∧ v.getLsbD 0 = true

/-- The next step is a host write of the external memory. -/
def memoryWrittenNow (s : State) : Prop := ∃ addr bytes, s.events.head? = some (.memWrite addr bytes)

/-! ### The invariant -/

/-- What a pending command may rely on: everything it needs was checked at issue, and no host access can change it while it
is pending (R92). MAP's progress index stays below W*H (R44). -/
def pendingReady (p : Pending) (s : State) : Bool :=
  p.instr.wf && decide (s.errCode = .ok) && decide (s.lastOp = p.instr.opcode) &&
  match p.instr with
  | .nop => decide (p.index = 0)
  | .clear => decide (p.index = 0) && s.palComplete
  | .buildLut diam => decide (p.index = 0) && !s.lutValid && diamOk s.params diam
  | .splat x y =>
    decide (p.index = 0) && s.palComplete && s.canvasInit && s.lutValid && splatFits s.params s.lutDiam.toNat x y
  | .addsat x y => decide (p.index = 0) && s.palComplete && s.canvasInit && cellIn s.params x y
  | .map =>
    s.palComplete && s.canvasInit && strideOk s.params p.stride && baseAligned p.base && rangeOk s.params p.base p.stride
      && decide (p.index < s.params.w * s.params.h)

/-- The invariant that every step keeps. -/
structure Inv (s : State) : Prop where
  /-- The build parameters are legal (R6). -/
  params : s.params.legal = true
  /-- The canvas is a memory of W×H cells in its canonical form (R39). -/
  canvas : cellsWf (s.params.w * s.params.h) s.canvas
  /-- The LUT memory holds the table of the current diameter and nothing else (R40, R100). -/
  lut : s.lut = builtLut s.lutDiam.toNat
  /-- A valid LUT has a legal diameter (R32, R98). -/
  lutValid : s.lutValid = true → diamOk s.params s.lutDiam.toNat = true
  /-- LUT_DIAM holds 0 while LUT_VALID = 0 (R32). -/
  lutInvalid : s.lutValid = false → s.lutDiam = 0
  /-- The palette memory is in its canonical form, with 256 entries at most (R41). -/
  palette : risingKeys s.pal ∧ ∀ e ∈ s.pal, e.1 < 256
  /-- The written mask marks exactly the entries written since reset (R42). -/
  palMask : ∀ k, k < 256 → s.palMask.getLsbD k = (findKey s.pal k).isSome
  /-- PAL_COUNT is the population count of the mask (R37). -/
  palCount : s.palCount.toNat = popcount s.palMask
  /-- PAL_COMPLETE is 1 exactly when all 256 entries are written (R113). -/
  palComplete : s.palComplete = true ↔ popcount s.palMask = 256
  /-- The external memory is in its canonical form, within 32-bit addresses (R49). -/
  mem : Memory.wf s.mem
  /-- The pending command can run (R92). -/
  pending : ∀ p, s.pending = some p → pendingReady p s = true

/-- A host program that R78 gives a meaning throughout: its commands have words, its branches have labels. -/
def hostWf (h : HostProgram) : Bool :=
  h.prog.all fun st =>
    match st with
    | .cmd i => i.wf
    | .bnz _ _ l => (labelIndex l h.prog).isSome
    | .wr _ _ => true
    | .rd _ _ => true
    | .label _ => true

/-! ### Commands one after another -/

/-- The command is issued and, if it is accepted, the engine takes its step at once (R84, R90): one of the admitted
interleavings, the one a host that waits for BUSY = 0 sees (R149). -/
def issueAndStep (i : Instr) (s : State) : Answer :=
  match exec i s with
  | .next t => engineTurn t
  | .fault f => .fault f
  | .refused r => .refused r

/-- Commands one after another, each issued and stepped before the next (R60). -/
def issueAll : List Instr → State → Answer
  | [], s => .next s
  | i :: is, s =>
    match issueAndStep i s with
    | .next t => issueAll is t
    | .fault f => .fault f
    | .refused r => .refused r

end Sys2Proof.Machine
end

