-- ==== Sys2Proof/Certificates/Slice0/Obligations.lean ====
section
/-! DEFINITION. The statements for the provers. `before e s` is the state whose next turn is `e` and whose turn finds `s`, so a
statement about `step (before e s)` for every `s` is about every state with that turn fixed. A pending command with the instruction
`i` is the engine's half of `exec i`; no pending command is the issue half. -/

open Sys2Proof Sys2Proof.Machine

/-! ### Encoding -/

/-- Decoding the word of a well-formed command gives the command back, with every operand (R68, R69, R70, R72). -/
def Obligations.DecodeOfEncodeIsTheCommand : Prop :=
  ∀ i : Instr, i.wf = true → decode (encode i) = .ok i

/-- A word that decodes to a command is the one word of that command, and the command is well-formed: no bit of a legal word is
dropped (R68, R76). -/
def Obligations.DecodedWordIsItsEncoding : Prop :=
  ∀ (w : Word) (i : Instr), decode w = .ok i → i.wf = true ∧ encode i = w

/-- R73. A word with opcode 6 to 15 is illegal; issued while no command is pending, it is rejected with ERRCODE 0x01 and changes
nothing else but what a rejection changes. -/
def Obligations.ReservedOpcodeIsRejected : Prop :=
  ∀ (s : State) (w : Word), 6 ≤ (w.extractLsb' 28 4).toNat →
    decode w = .error .opcode ∧ ErrCode.illegalOpcode.bits = 0x01 ∧
    (s.pending = none →
      step (before (.write 32 0x024 w) s) =
        .next { s with
          err := s.err ||| 0b000001, errCode := .illegalOpcode, lastOp := w.extractLsb' 28 4, done := true
          response := some .done })

/-- R74. A word with a legal opcode and a nonzero reserved bit of its format is illegal; issued while no command is pending, it is
rejected with ERRCODE 0x02, whatever its other bits. -/
def Obligations.NonzeroReservedBitsAreRejected : Prop :=
  ∀ (s : State) (w : Word),
    (((w.extractLsb' 28 4).toNat = 0 ∨ (w.extractLsb' 28 4).toNat = 1 ∨ (w.extractLsb' 28 4).toNat = 5) ∧
        w.extractLsb' 0 28 ≠ 0 ∨
      (w.extractLsb' 28 4).toNat = 2 ∧ w.extractLsb' 12 16 ≠ 0 ∨
      ((w.extractLsb' 28 4).toNat = 3 ∨ (w.extractLsb' 28 4).toNat = 4) ∧ w.extractLsb' 24 4 ≠ 0) →
    decode w = .error .reservedBits ∧ ErrCode.reservedBits.bits = 0x02 ∧
    (s.pending = none →
      step (before (.write 32 0x024 w) s) =
        .next { s with
          err := s.err ||| 0b000001, errCode := .reservedBits, lastOp := w.extractLsb' 28 4, done := true
          response := some .done })

/-- A few words written out from the formats of R68 and the vectors of 95_test_vectors.md section 2.2. -/
def Obligations.SampleWordsDecode : Prop :=
  decode 0b00000000000000000000000000000000 = .ok .nop ∧
  decode 0b00010000000000000000000000000000 = .ok .clear ∧
  decode 0b00100000000000000000000000000100 = .ok (.buildLut 4) ∧
  decode 0b00110000000000000001000000000010 = .ok (.splat 2 1) ∧
  decode 0b01000000000000000011000000000111 = .ok (.addsat 7 3) ∧
  decode 0b01010000000000000000000000000000 = .ok .map ∧
  decode 0b01101111111111111111111111111111 = .error .opcode ∧
  decode 0b00110001000000000000000000000000 = .error .reservedBits

/-- The register map of R20, offset by offset, and that it is one to one: each register is reached at its offset with a 32-bit
access, and only there. -/
def Obligations.RegisterMapIsOneToOne : Prop :=
  (∀ o r, (o, r) ∈ [((0x000 : BitVec 12), Reg.id), (0x004, .version), (0x008, .canvasW), (0x00C, .canvasH), (0x010, .lutDmax),
      (0x014, .ctrl), (0x018, .status), (0x01C, .err), (0x020, .int), (0x024, .cmd), (0x028, .cmdArg), (0x02C, .outBase),
      (0x030, .outStride), (0x034, .lutDiam), (0x038, .canvasPtr), (0x03C, .canvasData), (0x040, .lutPtr), (0x044, .lutData),
      (0x048, .palCount)] → r.offset = o ∧ regAt 32 o = some r) ∧
  (∀ k : BitVec 8, (Reg.pal k).offset.toNat = 0x400 + 4 * k.toNat) ∧
  (∀ r : Reg, regAt 32 r.offset = some r) ∧
  ∀ (width : Nat) (offset : BitVec 12) (r : Reg), regAt width offset = some r → width = 32 ∧ offset = r.offset

/-! ### What a step runs -/

/-- A host write of a command's word to CMD, while no command is pending, runs the decoded command on the state it finds (R84); so
does the step that `withFetchWord` sets up (the model's own, log 9); and a host statement that is a command writes its word (R78). -/
def Obligations.CmdWriteRunsTheDecodedCommand : Prop :=
  (∀ (s : State) (w : Word) (i : Instr), s.pending = none → decode w = .ok i →
    step (before (.write 32 0x024 w) s) = exec i { s with response := some .done }) ∧
  (∀ (s : State) (w : Nat) (i : Instr), w < 2 ^ 32 → decode (BitVec.ofNat 32 w) = .ok i →
    step (s.withFetchWord 32 w) = exec i { s with pending := none, response := some .done }) ∧
  ∀ (s : State) (i : Instr), s.pending = none → i.wf = true → s.host.prog[s.host.pc]? = some (.cmd i) →
    step (before .host s) =
      exec i { s with response := some .done, host := { s.host with pc := s.host.pc + 1 } }

/-- R78, the host statements that are not commands. `WR` is a 32-bit write of its register and `RD` a 32-bit read of it into a
temporary; a label does nothing; `BNZ` goes to its label when the temporary has a bit of the mask and to the next statement when it has
none. That a branch to a missing label stops the host is the model's choice (log 8). -/
def Obligations.HostStatementsActAsStated : Prop :=
  ∀ (s : State) (st : Stmt), s.host.prog[s.host.pc]? = some st →
    let next : State := { s with host := { s.host with pc := s.host.pc + 1 } }
    match st with
    | .cmd i => i.wf = true → step (before .host s) = step (before (.write 32 0x024 (encode i)) next)
    | .wr r v => step (before .host s) = step (before (.write 32 r.offset v) next)
    | .rd r n =>
      ∃ t u v, step (before (.read 32 r.offset) next) = .next t ∧ t.response = some (.data v) ∧
        step (before .host s) = .next u ∧ tempValue u.host n = v ∧
        (∀ m, m ≠ n → tempValue u.host m = tempValue s.host m) ∧
        u = { t with host := { next.host with temps := u.host.temps } }
    | .label _ => step (before .host s) = .next next
    | .bnz n mask l =>
      (tempValue s.host n &&& mask = 0 → step (before .host s) = .next next) ∧
      (tempValue s.host n &&& mask ≠ 0 →
        (∀ k, labelIndex l s.host.prog = some k →
          step (before .host s) = .next { s with host := { s.host with pc := k } }) ∧
        (labelIndex l s.host.prog = none → step (before .host s) = .fault (.missingLabel l)))

/-- The engine's turn runs the pending command (R90). Two clauses are the model's choice of log 5: a fixed engine turn that finds no
command pending does nothing, and with no turn fixed and the host program through the next step is the engine's, which moves the
free-running counters `freeIdx` and `waited`. -/
def Obligations.EngineTurnRunsThePendingCommand : Prop :=
  (∀ (s : State) (p : Pending), s.pending = some p → step (before .engine s) = exec p.instr s) ∧
  (∀ s : State, s.pending = none → step (before .engine s) = .next s) ∧
  ∀ (s : State) (p : Pending), s.events = [] → s.pending = some p → s.host.prog.length ≤ s.host.pc →
    step s = exec p.instr { s with freeIdx := s.freeIdx + 1, waited := 0 }

/-! ### Issuing a command -/

/-- R85. A CMD write while a command is pending sets ERR.CMD_OVERRUN and changes nothing else: not STATUS, not INT, not the
pending command, no memory. The access gets its normal response. -/
def Obligations.CmdWriteWhileBusyIsDropped : Prop :=
  ∀ (s : State) (w : Word) (p : Pending), s.pending = some p →
    step (before (.write 32 0x024 w) s) =
      .next { s with err := s.err ||| 0b000010, response := some .done }

/-- R86 with R84 and R87. While no command is pending, the first failing check, in the spec's order, gives the code of the rejection
of a CMD write; a word that fails none is accepted. The codes have the numbers of R86 and R125. -/
def Obligations.FirstFailingCheckGivesTheCode : Prop :=
  ([ErrCode.ok, .illegalOpcode, .reservedBits, .noPalette, .noClear, .noLut, .lutLocked, .badDiameter, .bounds, .badStride,
      .misaligned, .addrRange, .busError].map ErrCode.bits =
    [0x00, 0x01, 0x02, 0x03, 0x04, 0x05, 0x06, 0x07, 0x08, 0x09, 0x0A, 0x0B, 0x0C]) ∧
  ∀ (s : State) (w : Word), s.pending = none →
    let stride := s.outStride.toNat
    let rejected (c : ErrCode) : Answer :=
      .next { s with
        err := s.err ||| 0b000001, errCode := c, lastOp := w.extractLsb' 28 4, done := true, response := some .done }
    let accepted (i : Instr) : Answer :=
      .next { s with
        pending := some ⟨i, s.cmdArg, s.outBase, s.outStride, 0⟩, errCode := .ok, lastOp := w.extractLsb' 28 4
        response := some .done }
    step (before (.write 32 0x024 w) s) =
      match decode w with
      | .error .opcode => rejected .illegalOpcode
      | .error .reservedBits => rejected .reservedBits
      | .ok .nop => accepted .nop
      | .ok (.buildLut d) =>
        if s.lutValid = true then rejected .lutLocked
        else if ¬ (1 ≤ d ∧ d ≤ s.params.dmax ∧ d ≤ s.params.w ∧ d ≤ s.params.h) then rejected .badDiameter
        else accepted (.buildLut d)
      | .ok .clear => if s.palComplete = false then rejected .noPalette else accepted .clear
      | .ok (.addsat x y) =>
        if s.palComplete = false then rejected .noPalette
        else if s.canvasInit = false then rejected .noClear
        else if ¬ (x < s.params.w ∧ y < s.params.h) then rejected .bounds
        else accepted (.addsat x y)
      | .ok (.splat x y) =>
        if s.palComplete = false then rejected .noPalette
        else if s.canvasInit = false then rejected .noClear
        else if s.lutValid = false then rejected .noLut
        else if ¬ (x + s.lutDiam.toNat ≤ s.params.w ∧ y + s.lutDiam.toNat ≤ s.params.h) then rejected .bounds
        else accepted (.splat x y)
      | .ok .map =>
        if s.palComplete = false then rejected .noPalette
        else if s.canvasInit = false then rejected .noClear
        else if ¬ s.params.w ≤ stride then rejected .badStride
        else if ¬ s.outBase.toNat % 4 = 0 then rejected .misaligned
        else if ¬ s.outBase.toNat + 4 * ((s.params.h - 1) * stride + s.params.w) ≤ 2 ^ 32 then rejected .addrRange
        else accepted .map

/-- R142 with R88 and R89. Issued while no command is pending, each command is accepted exactly when the MBSA holds what R142's table
asks; acceptance makes it pending with the copies of CMD_ARG, OUT_BASE and OUT_STRIDE, sets ERRCODE 0x00 and LAST_OP, and
leaves INT.DONE, the memories and everything else alone. Otherwise it is rejected with some code. -/
def Obligations.CommandIsAcceptedExactlyWhenReady : Prop :=
  ∀ (s : State) (i : Instr), s.pending = none →
    let ready : Prop :=
      match i with
      | .nop => True
      | .buildLut d => s.lutValid = false ∧ 1 ≤ d ∧ d ≤ s.params.dmax ∧ d ≤ s.params.w ∧ d ≤ s.params.h
      | .clear => s.palComplete = true
      | .addsat x y => s.palComplete = true ∧ s.canvasInit = true ∧ x < s.params.w ∧ y < s.params.h
      | .splat x y =>
        s.palComplete = true ∧ s.canvasInit = true ∧ s.lutValid = true ∧
          x + s.lutDiam.toNat ≤ s.params.w ∧ y + s.lutDiam.toNat ≤ s.params.h
      | .map =>
        s.palComplete = true ∧ s.canvasInit = true ∧ s.params.w ≤ s.outStride.toNat ∧ s.outBase.toNat % 4 = 0 ∧
          s.outBase.toNat + 4 * ((s.params.h - 1) * s.outStride.toNat + s.params.w) ≤ 2 ^ 32
    (ready →
      exec i s =
        .next { s with
          pending := some ⟨i, s.cmdArg, s.outBase, s.outStride, 0⟩, errCode := .ok, lastOp := i.opcode }) ∧
    (¬ ready → ∃ c : ErrCode, c ≠ .ok ∧
      exec i s =
        .next { s with err := s.err ||| 0b000001, errCode := c, lastOp := i.opcode, done := true })

/-- R113's second half: while PAL_COMPLETE = 0, CLEAR, ADDSAT, SPLAT and MAP are rejected with 0x03. -/
def Obligations.FrameCommandsNeedThePalette : Prop :=
  ∀ (s : State) (i : Instr), s.pending = none → s.palComplete = false → i ≠ .nop → (∀ d, i ≠ .buildLut d) →
    exec i s = .next { s with
      err := s.err ||| 0b000001, errCode := .noPalette, lastOp := i.opcode, done := true } ∧
    ErrCode.noPalette.bits = 0x03

/-! ### The six commands: results and completion -/

/-- R94's engine step: NOP completes with code 0x00 and changes nothing else. -/
def Obligations.NopOnlyCompletes : Prop :=
  ∀ (s : State) (p : Pending), s.pending = some p → p.instr = .nop →
    exec .nop s = .next { s with pending := none, errCode := .ok, done := true }

/-- R105's engine step: CLEAR completes with code 0x00, every canvas cell reads 0, CANVAS_INIT is 1, and nothing else
changes. -/
def Obligations.ClearZeroesTheCanvas : Prop :=
  ∀ (s : State) (p : Pending), s.pending = some p → p.instr = .clear →
    ∃ t, exec .clear s = .next t ∧
      (∀ x y, canvasCell t x y = 0) ∧
      t = { s with canvas := t.canvas, canvasInit := true, pending := none, errCode := .ok, done := true }

/-- R100's engine step with R95 and R96: BUILD_LUT completes with code 0x00; every cell of the D×D table holds the energy of its
exact squared distance from cell (r, r), 255 at the centre; LUT_DIAM is D, LUT_VALID is 1, and nothing else changes. -/
def Obligations.BuildLutWritesTheFalloff : Prop :=
  ∀ (s : State) (p : Pending) (d : Nat), s.pending = some p → p.instr = .buildLut d → d < 4096 →
    ∃ t, exec (.buildLut d) s = .next t ∧
      t.lutDiam.toNat = d ∧
      (∀ i j sq : Nat, i < d → j < d →
        (sq : Int) = ((i : Int) - (d / 2 : Nat)) ^ 2 + ((j : Int) - (d / 2 : Nat)) ^ 2 →
        (lutCell t i j).toNat = if sq = 0 then 255 else min 255 (1000 * (d / 2) / (9 * sq))) ∧
      t = { s with
        lut := t.lut, lutDiam := t.lutDiam, lutValid := true, pending := none, errCode := .ok, done := true }

/-- R106's engine step with R102: ADDSAT completes with code 0x00; cell (X, Y) holds min(255, cell + VALUE), the sum exact and VALUE
the copy taken at acceptance; every other cell and everything else is unchanged. -/
def Obligations.AddsatAddsTheCopiedValue : Prop :=
  ∀ (s : State) (p : Pending) (x y : Nat), s.pending = some p → p.instr = .addsat x y →
    x < s.params.w → y < s.params.h →
    ∃ t, exec (.addsat x y) s = .next t ∧
      (canvasCell t x y).toNat = min 255 ((canvasCell s x y).toNat + p.value.toNat) ∧
      (∀ x' y', x' < s.params.w → (x' ≠ x ∨ y' ≠ y) → canvasCell t x' y' = canvasCell s x' y') ∧
      t = { s with canvas := t.canvas, pending := none, errCode := .ok, done := true }

/-- R109's engine step: SPLAT completes with code 0x00; canvas cell (X + i, Y + j) holds min(255, cell + lut[i, j]) for every
0 ≤ i, j < D; every cell outside the footprint and everything else, the LUT among it, is unchanged. -/
def Obligations.SplatAddsEveryLutCell : Prop :=
  ∀ (s : State) (p : Pending) (x y : Nat), s.pending = some p → p.instr = .splat x y →
    x + s.lutDiam.toNat ≤ s.params.w → y + s.lutDiam.toNat ≤ s.params.h →
    ∃ t, exec (.splat x y) s = .next t ∧
      (∀ i j, i < s.lutDiam.toNat → j < s.lutDiam.toNat →
        (canvasCell t (x + i) (y + j)).toNat = min 255 ((canvasCell s (x + i) (y + j)).toNat + (lutCell s i j).toNat)) ∧
      (∀ x' y', x' < s.params.w → ¬ (x ≤ x' ∧ x' < x + s.lutDiam.toNat ∧ y ≤ y' ∧ y' < y + s.lutDiam.toNat) →
        canvasCell t x' y' = canvasCell s x' y') ∧
      t = { s with canvas := t.canvas, pending := none, errCode := .ok, done := true }

/-- R121's engine step with R52 and R117 to R119: MAP writes the palette colour of pixel n, little-endian, at BASE + 4*(y*STRIDE + x)
when the reply is `ok`, be it a fixed or a free one; it completes with code 0x00 in the step of the last pixel and leaves pixel n + 1
to the next step before that. Every byte outside the four reads as before and nothing else changes, but for the reply's own fields
`replies` and `freeIdx`, which are the model's (log 6). -/
def Obligations.MapWritesTheNextPixel : Prop :=
  ∀ (s : State) (p : Pending), s.pending = some p → p.instr = .map → p.index < s.params.w * s.params.h →
    nextReply s = .ok →
    let x := p.index % s.params.w
    let y := p.index / s.params.w
    let addr := p.base.toNat + 4 * (y * p.stride.toNat + x)
    let colour := palEntry s.pal (canvasCell s x y).toNat
    let freeIdx' := if s.replies = [] then s.freeIdx + 1 else s.freeIdx
    ∃ t, exec .map s = .next t ∧
      readByte t.mem addr = some (colour.extractLsb' 0 8) ∧
      readByte t.mem (addr + 1) = some (colour.extractLsb' 8 8) ∧
      readByte t.mem (addr + 2) = some (colour.extractLsb' 16 8) ∧
      readByte t.mem (addr + 3) = some (colour.extractLsb' 24 8) ∧
      (∀ a, a < addr ∨ addr + 4 ≤ a → readByte t.mem a = readByte s.mem a) ∧
      (p.index + 1 = s.params.w * s.params.h →
        t = { s with
          mem := t.mem, replies := s.replies.tail, freeIdx := freeIdx', pending := none, errCode := .ok, done := true }) ∧
      (p.index + 1 ≠ s.params.w * s.params.h →
        t = { s with
          mem := t.mem, replies := s.replies.tail, freeIdx := freeIdx'
          pending := some { p with index := p.index + 1 } })

/-- R120. When a pixel write gets `err`, be it a fixed or a free reply, MAP completes with BUS_ERROR (0x0C) in that step, with
ERR.CMD_ERR and DONE; the failed word holds MAP's bytes or what it held, as the reply says; no other byte changes, and nothing is
pending, so no later write is issued. The reply's own fields `replies` and `freeIdx` are the model's (log 6). -/
def Obligations.MapStopsAtAFailedWrite : Prop :=
  ∀ (s : State) (p : Pending) (landed : Bool), s.pending = some p → p.instr = .map → nextReply s = .err landed →
    let x := p.index % s.params.w
    let y := p.index / s.params.w
    let addr := p.base.toNat + 4 * (y * p.stride.toNat + x)
    let colour := palEntry s.pal (canvasCell s x y).toNat
    ErrCode.busError.bits = 0x0C ∧
    ∃ t, exec .map s = .next t ∧
      (landed = true → ∀ k, k < 4 → readByte t.mem (addr + k) = some (colour.extractLsb' (8 * k) 8)) ∧
      (landed = false → ∀ k, k < 4 → readByte t.mem (addr + k) = readByte s.mem (addr + k)) ∧
      (∀ a, a < addr ∨ addr + 4 ≤ a → readByte t.mem a = readByte s.mem a) ∧
      t = { s with
        mem := t.mem, replies := s.replies.tail, freeIdx := if s.replies = [] then s.freeIdx + 1 else s.freeIdx
        pending := none, errCode := .busError, err := s.err ||| 0b000001, done := true }

/-! ### Frames -/

/-- What the engine's step of a one-step command leaves alone, each command by name: NOP, CLEAR, BUILD_LUT, SPLAT and ADDSAT store
nothing in the external memory. -/
def Obligations.OneStepCommandFrame : Prop :=
  ∀ (s t : State) (p : Pending) (i : Instr), s.pending = some p → p.instr = i → i ≠ .map → exec i s = .next t →
    t = { s with
      canvas := t.canvas, canvasInit := t.canvasInit, lut := t.lut, lutDiam := t.lutDiam, lutValid := t.lutValid
      pending := none, errCode := .ok, done := true } ∧
    (i ≠ .clear → t.canvasInit = s.canvasInit) ∧
    (i ≠ .clear → (∀ x y, i ≠ .splat x y) → (∀ x y, i ≠ .addsat x y) → t.canvas = s.canvas) ∧
    ((∀ d, i ≠ .buildLut d) → t.lut = s.lut ∧ t.lutDiam = s.lutDiam ∧ t.lutValid = s.lutValid) ∧
    ∀ a, readByte t.mem a = readByte s.mem a

/-- What a step of MAP leaves alone: the canvas, the palette, the LUT, every register but ERRCODE, ERR and DONE, and every byte of
the external memory outside the four bytes of the pixel it writes (R121, R122). -/
def Obligations.MapStepFrame : Prop :=
  ∀ (s t : State) (p : Pending), s.pending = some p → p.instr = .map → exec .map s = .next t →
    t = { s with
      mem := t.mem, pending := t.pending, errCode := t.errCode, err := t.err, done := t.done
      replies := t.replies, freeIdx := t.freeIdx } ∧
    ∀ a, a < nextPixelAddr p s ∨ nextPixelAddr p s + 4 ≤ a → readByte t.mem a = readByte s.mem a

/-- What the issue of a command leaves alone, whichever command and whether it is accepted or rejected: every memory, every flag but
DONE and ERR.CMD_ERR, every register but STATUS, and every byte of the external memory (R87, R88). -/
def Obligations.IssueFrame : Prop :=
  ∀ (s t : State) (i : Instr), s.pending = none → exec i s = .next t →
    t = { s with pending := t.pending, errCode := t.errCode, lastOp := t.lastOp, err := t.err, done := t.done } ∧
    t.lastOp = i.opcode ∧
    (∀ b, 1 ≤ b → t.err.getLsbD b = s.err.getLsbD b) ∧
    ∀ a, readByte t.mem a = readByte s.mem a

/-! ### Registers -/

/-- R80. An access of another width, at an offset that is no multiple of 4, or at an unmapped offset gets a bus error response and
changes nothing else; every other access does not. -/
def Obligations.BadAccessGetsABusError : Prop :=
  ∀ (s : State) (width : Nat) (offset : BitVec 12) (v : Word),
    (width ≠ 32 ∨ offset.toNat % 4 ≠ 0 ∨ (0x04C ≤ offset.toNat ∧ offset.toNat ≤ 0x3FF) ∨ 0x800 ≤ offset.toNat →
      step (before (.read width offset) s) = .next { s with response := some .busError } ∧
      step (before (.write width offset v) s) = .next { s with response := some .busError }) ∧
    (¬ (width ≠ 32 ∨ offset.toNat % 4 ≠ 0 ∨ (0x04C ≤ offset.toNat ∧ offset.toNat ≤ 0x3FF) ∨ 0x800 ≤ offset.toNat) →
      (∃ t d, step (before (.read width offset) s) = .next t ∧ t.response = some (.data d)) ∧
      ∃ t, step (before (.write width offset v) s) = .next t ∧ t.response = some .done)

/-- Reading has no effect on the MBSA's state, but for the two data ports, which can only set ERR bits 3 to 5 (R34, R56, R81). -/
def Obligations.OnlyDataPortReadsHaveSideEffects : Prop :=
  ∀ (s : State) (r : Reg),
    (r ≠ .canvasData → r ≠ .lutData →
      step (before (.read 32 r.offset) s) = .next { s with response := some (.data (readReg r s).1) }) ∧
    ∃ t, step (before (.read 32 r.offset) s) = .next t ∧
      t = { s with response := some (.data (readReg r s).1), err := t.err } ∧
      (∀ b, b < 3 → t.err.getLsbD b = s.err.getLsbD b) ∧
      ∀ b, s.err.getLsbD b = true → t.err.getLsbD b = true

/-- What a read at 0x000, 0x004, 0x008, 0x00C, 0x010 and 0x024 returns (R21, R22, R23, R81): the constants of ID and VERSION, the
parameters, for parameters in their legal ranges, and 0 for CMD, each with no side effect. -/
def Obligations.IdentityRegistersRead : Prop :=
  ∀ s : State, s.params.legal = true →
    let returns (offset : BitVec 12) (n : Nat) : Prop :=
      ∃ v : Word, step (before (.read 32 offset) s) = .next { s with response := some (.data v) } ∧ v.toNat = n
    returns 0x000 0x4D425341 ∧ returns 0x004 0x00000001 ∧ returns 0x008 s.params.w ∧ returns 0x00C s.params.h ∧
    returns 0x010 s.params.dmax ∧ returns 0x024 0

/-- The fields of the STATUS word (R25, R43) that a read at 0x018 returns, with no side effect: bits 0 to 3 are BUSY, PAL_COMPLETE,
LUT_VALID and CANVAS_INIT, [15:8] ERRCODE, [19:16] LAST_OP, the rest 0. -/
def Obligations.StatusWordLayout : Prop :=
  ∀ s : State,
    let v := (readReg .status s).1
    step (before (.read 32 0x018) s) = .next { s with response := some (.data v) } ∧
    (v.getLsbD 0 = true ↔ ∃ p, s.pending = some p) ∧ v.getLsbD 1 = s.palComplete ∧ v.getLsbD 2 = s.lutValid ∧
    v.getLsbD 3 = s.canvasInit ∧ v.extractLsb' 4 4 = 0 ∧ v.extractLsb' 8 8 = s.errCode.bits ∧
    v.extractLsb' 16 4 = s.lastOp ∧ v.extractLsb' 20 12 = 0 ∧ s.errCode.bits.toNat ≤ 0x0C

/-- What a read at 0x01C, 0x020, 0x034 and 0x048 returns (R26, R27, R32, R37), with no side effect: the six ERR bits, INT.DONE,
LUT_DIAM's D and PAL_COUNT, each as a number, so that every other bit of the word is 0. -/
def Obligations.ErrIntDiameterAndCountRead : Prop :=
  ∀ s : State,
    let returns (offset : BitVec 12) (n : Nat) : Prop :=
      ∃ v : Word, step (before (.read 32 offset) s) = .next { s with response := some (.data v) } ∧ v.toNat = n
    returns 0x01C s.err.toNat ∧ returns 0x020 (if s.done = true then 1 else 0) ∧ returns 0x034 s.lutDiam.toNat ∧
    returns 0x048 s.palCount.toNat

/-- What a read returns after a write, with reserved bits 0 (R19, R24, R29, R30, R31, R33, R35): a write to a read-write register,
and it is so whether or not a command is pending. -/
def Obligations.WrittenRegistersReadBack : Prop :=
  ∀ (s : State) (v : Word),
    (∃ t, step (before (.write 32 0x028 v) s) = .next t ∧ (readReg .cmdArg t).1 = v &&& 0x000000FF) ∧
    (∃ t, step (before (.write 32 0x02C v) s) = .next t ∧ (readReg .outBase t).1 = v) ∧
    (∃ t, step (before (.write 32 0x030 v) s) = .next t ∧ (readReg .outStride t).1 = v &&& 0x0000FFFF) ∧
    (∃ t, step (before (.write 32 0x038 v) s) = .next t ∧ (readReg .canvasPtr t).1 = v &&& 0x00FFFFFF) ∧
    (∃ t, step (before (.write 32 0x040 v) s) = .next t ∧ (readReg .lutPtr t).1 = v &&& 0x00FFFFFF) ∧
    (v.getLsbD 0 = false →
      ∃ t, step (before (.write 32 0x014 v) s) = .next t ∧ (readReg .ctrl t).1 = v &&& 0x00000002)

/-- What a register write leaves alone. A write to a read-only register does nothing (R19, R82); CMD_ARG, OUT_BASE, OUT_STRIDE and the
pointers change their own fields; ERR and INT clear the bits written as 1 and no other (R26, R27); CTRL without bit 0 sets
IRQ_EN. -/
def Obligations.RegisterWriteFrame : Prop :=
  ∀ (s : State) (v : Word),
    (∀ r ∈ [Reg.id, .version, .canvasW, .canvasH, .lutDmax, .status, .lutDiam, .canvasData, .lutData, .palCount],
      step (before (.write 32 r.offset v) s) = .next { s with response := some .done }) ∧
    step (before (.write 32 0x028 v) s) = .next { s with response := some .done, cmdArg := v.extractLsb' 0 8 } ∧
    step (before (.write 32 0x02C v) s) = .next { s with response := some .done, outBase := v } ∧
    step (before (.write 32 0x030 v) s) = .next { s with response := some .done, outStride := v.extractLsb' 0 16 } ∧
    step (before (.write 32 0x038 v) s) = .next { s with
      response := some .done, canvasX := v.extractLsb' 0 12, canvasY := v.extractLsb' 12 12 } ∧
    step (before (.write 32 0x040 v) s) = .next { s with
      response := some .done, lutI := v.extractLsb' 0 12, lutJ := v.extractLsb' 12 12 } ∧
    (∃ t, step (before (.write 32 0x01C v) s) = .next t ∧ t = { s with response := some .done, err := t.err } ∧
      ∀ b, b < 6 → t.err.getLsbD b = (s.err.getLsbD b && !v.getLsbD b)) ∧
    step (before (.write 32 0x020 v) s) = .next { s with
      response := some .done, done := s.done && !v.getLsbD 0 } ∧
    (v.getLsbD 0 = false →
      step (before (.write 32 0x014 v) s) = .next { s with response := some .done, irqEn := v.getLsbD 1 })

/-- R89's last sentence with R82 and R92: no host register write but a soft reset changes the pending command, the canvas or the
LUT, and an OUT_BASE, OUT_STRIDE or CMD_ARG write does not reach the copies. -/
def Obligations.HostWritesLeaveThePendingCommand : Prop :=
  ∀ (s : State) (p : Pending) (r : Reg) (v : Word), s.pending = some p → (r = .ctrl → v.getLsbD 0 = false) →
    ∃ t, step (before (.write 32 r.offset v) s) = .next t ∧ t.pending = some p ∧
      t.canvas = s.canvas ∧ t.lut = s.lut ∧ t.lutDiam = s.lutDiam ∧ t.params = s.params ∧ t.mem = s.mem

/-- R107. A read of CANVAS_DATA, its refusals in the order of R128. -/
def Obligations.CanvasDataRead : Prop :=
  ∀ s : State,
    let x := s.canvasX.toNat
    let y := s.canvasY.toNat
    step (before (.read 32 0x03C) s) =
      if s.pending ≠ none then .next { s with response := some (.data 0), err := s.err ||| 0b001000 }
      else if s.params.w ≤ x ∨ s.params.h ≤ y then
        .next { s with response := some (.data 0), err := s.err ||| 0b010000 }
      else if s.canvasInit = false then .next { s with response := some (.data 0), err := s.err ||| 0b100000 }
      else .next { s with response := some (.data ((canvasCell s x y).setWidth 32)) }

/-- R101. A read of LUT_DATA. -/
def Obligations.LutDataRead : Prop :=
  ∀ s : State,
    let i := s.lutI.toNat
    let j := s.lutJ.toNat
    step (before (.read 32 0x044) s) =
      if s.pending ≠ none then .next { s with response := some (.data 0), err := s.err ||| 0b001000 }
      else if s.lutValid = false ∨ s.lutDiam.toNat ≤ i ∨ s.lutDiam.toNat ≤ j then
        .next { s with response := some (.data 0), err := s.err ||| 0b010000 }
      else .next { s with response := some (.data ((lutCell s i j).setWidth 32)) }

/-! ### The palette -/

/-- R112 and R113: a PAL[k] write before the palette is complete is taken at once; the mask marks k, PAL_COUNT is the number of marked
entries, PAL_COMPLETE becomes 1 exactly at 256, and nothing else changes, whether or not a command is pending. In states of
the invariant PAL_COUNT grows by one exactly when k had not been written. -/
def Obligations.PaletteWriteIsTaken : Prop :=
  ∀ (s : State) (k : BitVec 8) (v : Word), Inv s → s.palComplete = false →
    ∃ t, step (before (.write 32 ((1 : BitVec 2) ++ k ++ (0 : BitVec 2)) v) s) = .next t ∧
      (readReg (.pal k) t).1 = v ∧
      (∀ k', k' ≠ k → (readReg (.pal k') t).1 = (readReg (.pal k') s).1) ∧
      (∀ n, t.palMask.getLsbD n = (s.palMask.getLsbD n || decide (n = k.toNat))) ∧
      t.palCount.toNat = s.palCount.toNat + (if s.palMask.getLsbD k.toNat then 0 else 1) ∧
      (t.palComplete = true ↔ t.palCount.toNat = 256) ∧
      t = { s with
        response := some .done, pal := t.pal, palMask := t.palMask, palCount := t.palCount, palComplete := t.palComplete }

/-- R114. Once the palette is complete a PAL[k] write is dropped: the entry keeps its value, ERR.PAL_LOCKED is set, the response is
normal, and nothing else changes. No step but a reset unlocks the palette. -/
def Obligations.PaletteWriteIsDroppedWhenComplete : Prop :=
  ∀ s : State, s.palComplete = true →
    (∀ (k : BitVec 8) (v : Word),
      step (before (.write 32 ((1 : BitVec 2) ++ k ++ (0 : BitVec 2)) v) s) =
        .next { s with response := some .done, err := s.err ||| 0b000100 }) ∧
    ∀ t, step s = .next t → ¬ resetsNow s → t.palComplete = true ∧ t.pal = s.pal

/-- R115. A read of PAL[k] returns the entry if it has been written since reset and 0 otherwise, also while a command is pending,
with no side effect. -/
def Obligations.PaletteRead : Prop :=
  ∀ (s : State) (k : BitVec 8),
    step (before (.read 32 ((1 : BitVec 2) ++ k ++ (0 : BitVec 2))) s) =
      .next { s with
        response := some (.data (if s.palMask.getLsbD k.toNat = true then palEntry s.pal k.toNat else 0)) }

/-! ### Reset and interrupt -/

/-- R139. A reset, in one step, leaves the registers at the values of R139's table, no command pending and `irq` low; the build
parameters stay, and so does the external memory unless a MAP was pending (R140). -/
def Obligations.ResetGivesTheResetValues : Prop :=
  ∀ s : State, s.params.legal = true →
    ∃ t, step (before .reset s) = .next t ∧
      (∀ r v, (r, v) ∈ [(Reg.id, (0x4D425341 : Word)), (.version, 0x00000001), (.ctrl, 0), (.status, 0), (.err, 0),
          (.int, 0), (.cmdArg, 0), (.outBase, 0), (.outStride, 0), (.lutDiam, 0), (.canvasPtr, 0), (.lutPtr, 0),
          (.palCount, 0)] → (readReg r t).1 = v) ∧
      (readReg .canvasW t).1.toNat = s.params.w ∧ (readReg .canvasH t).1.toNat = s.params.h ∧
      (readReg .lutDmax t).1.toNat = s.params.dmax ∧
      (∀ k, (readReg (.pal k) t).1 = 0) ∧ t.palMask = 0 ∧ t.pending = none ∧ t.irq = false ∧
      ((∀ p, s.pending = some p → p.instr ≠ .map) → t.mem = s.mem) ∧
      t.params = s.params

/-- R140. A CTRL write with bit 0 = 1 does what the reset input does, in the same step, and gets a normal response. No command is
pending after it and DONE is 0. If a MAP was pending, the next word it would have written is MAP's or what it was, and no other byte of
the external memory changes; any other pending command is discarded with no effect. -/
def Obligations.SoftResetIsReset : Prop :=
  ∀ (s : State) (v : Word), v.getLsbD 0 = true →
    step (before (.write 32 0x014 v) s) = step (before .reset { s with response := some .done }) ∧
    ∃ t, step (before (.write 32 0x014 v) s) = .next t ∧ t.pending = none ∧ t.done = false ∧ t.response = some .done ∧
      (∀ p, s.pending = some p → p.instr = .map →
        t.mem = s.mem ∨ t.mem = writeWord s.mem (nextPixelAddr p s) (nextPixelColour p s)) ∧
      ((∀ p, s.pending = some p → p.instr ≠ .map) → t.mem = s.mem)

/-- Both outcomes that R140 admits for the word a stopped MAP has outstanding happen. That the reply the write would have got, fixed
or free, decides between them is the model's choice (log 6). -/
def Obligations.StoppedMapWordHasTwoOutcomes : Prop :=
  ∀ (s : State) (p : Pending) (reply : BusReply), s.pending = some p → p.instr = .map → nextReply s = reply →
    ∃ t, step (before .reset s) = .next t ∧
      (reply ≠ .err false → t.mem = writeWord s.mem (nextPixelAddr p s) (nextPixelColour p s)) ∧
      (reply = .err false → t.mem = s.mem)

/-- What reset leaves in `State.reset`, read through the register port (R139). -/
def Obligations.ResetStateReads : Prop :=
  (∀ r v, (r, v) ∈ [(Reg.id, (0x4D425341 : Word)), (.version, 1), (.ctrl, 0), (.status, 0), (.err, 0), (.int, 0),
      (.cmdArg, 0), (.outBase, 0), (.outStride, 0), (.lutDiam, 0), (.canvasPtr, 0), (.lutPtr, 0), (.palCount, 0)] →
    (readReg r State.reset).1 = v) ∧
  State.reset.pending = none ∧ State.reset.palMask = 0 ∧ State.reset.irq = false

/-- R129 and R131. `irq` is IRQ_EN and DONE. A rejection and a completion raise it when IRQ_EN is 1; an acceptance leaves DONE as
it was; writing 1 to INT bit 0 lowers it; clearing IRQ_EN masks it without clearing DONE. -/
def Obligations.InterruptFollowsDone : Prop :=
  ∀ s : State,
    (s.irq = true ↔ s.irqEn = true ∧ s.done = true) ∧
    (∀ t p, s.pending = some p → exec p.instr s = .next t → t.pending = none → t.irq = s.irqEn) ∧
    (∀ t i, s.pending = none → exec i s = .next t → t.pending = none → t.irq = s.irqEn) ∧
    (∀ t i, s.pending = none → exec i s = .next t → t.pending ≠ none → t.done = s.done) ∧
    (∃ t, step (before (.write 32 0x020 1) s) = .next t ∧ t.irq = false ∧ t.irqEn = s.irqEn) ∧
    ∃ t, step (before (.write 32 0x014 0) s) = .next t ∧ t.irq = false ∧ t.done = s.done

/-! ### Arithmetic -/

/-- R97, its eight laws of the falloff. -/
def Obligations.FalloffLaws : Prop :=
  (∀ r sq, falloff r sq ≤ 255) ∧
  (∀ r, falloff r 0 = 255) ∧
  (∀ r sq sq', sq ≤ sq' → falloff r sq' ≤ falloff r sq) ∧
  (∀ r sq, 0 < sq → (falloff r sq = 255 ↔ 2295 * sq ≤ 1000 * r)) ∧
  (∀ r sq, 0 < sq → (falloff r sq = 0 ↔ 1000 * r < 9 * sq)) ∧
  (lutValue 1 0 0).toNat = 255 ∧
  (∀ d i j, lutValue d i j = lutValue d j i) ∧
  ∀ d a j, a ≤ d / 2 → d / 2 + a < d →
    lutValue d (d / 2 + a) j = lutValue d (d / 2 - a) j ∧ lutValue d j (d / 2 + a) = lutValue d j (d / 2 - a)

/-- R103, its laws of the saturating add at one canvas cell: the closed form for any list of contributions, independence of their
order, and that 255 absorbs and 0 changes nothing. -/
def Obligations.SaturatingAddLaws : Prop :=
  ∀ (w x y : Nat) (canvas : List (Nat × Byte)) (vs : List Byte),
    let after (l : List Byte) : Byte :=
      cellAt (l.foldl (fun c v => addsatCell w c x y v) canvas) (canvasIndex w x y)
    (after vs).toNat = min 255 ((cellAt canvas (canvasIndex w x y)).toNat + (vs.map BitVec.toNat).sum) ∧
    (after vs).toNat ≤ 255 ∧
    (∀ us : List Byte, us.Perm vs → after us = after vs) ∧
    after [0] = cellAt canvas (canvasIndex w x y) ∧
    (cellAt canvas (canvasIndex w x y) = 255 → after vs = 255)

/-- R117: addresses of distinct pixels are distinct, a multiple of 4, and at most 0xFFFFFFFC, for operands that MAP accepts. -/
def Obligations.PixelAddressesAreDistinctAndAligned : Prop :=
  ∀ (p : Params) (base : Word) (stride : BitVec 16), strideOk p stride = true → baseAligned base = true →
    rangeOk p base stride = true →
    (∀ x y, x < p.w → y < p.h →
      pixelAddr base stride x y = base.toNat + 4 * (y * stride.toNat + x) ∧
      pixelAddr base stride x y % 4 = 0 ∧ pixelAddr base stride x y ≤ 0xFFFFFFFC) ∧
    ∀ x y x' y', x < p.w → y < p.h → x' < p.w → y' < p.h →
      pixelAddr base stride x y = pixelAddr base stride x' y' → x = x' ∧ y = y'

/-! ### The whole machine -/

/-- The invariant holds after reset. -/
def Obligations.InvariantHoldsAtReset : Prop := Inv State.reset

/-- Every step keeps the invariant: memories in canonical form and within their size, the LUT the table of its diameter, PAL_COUNT and
PAL_COMPLETE what the written mask says, and a pending command always able to run, with MAP's index below W*H (R92). -/
def Obligations.EveryStepKeepsTheInvariant : Prop :=
  ∀ s t : State, Inv s → step s = .next t → Inv t

/-- The MBSA never stops: no step refuses; an engine turn, a reset and every register access answer a next state (R80, R124); a host
read of the external memory within its 2^32 bytes returns the bytes it holds, and a host write there is done (R3, R12, R49). That an
access of any length is answered in one turn, a MAP pending or not, is the model's choice (log 12, DESIGN CHOICE): R55 makes 32 bits
atomic and leaves a wider access open. A fault comes only from a host access that passes the end of the external memory, or from the
host program's own statement, a command whose operands no word holds or a branch to a missing label: these are the model's choices of
logs 3 and 8, and so is the free value of a byte that nothing has written (log 3). -/
def Obligations.NothingTheMachineDoesStops : Prop :=
  ∀ s : State,
    (∀ r, step s ≠ .refused r) ∧
    (∀ f, step s = .fault f →
      (∃ addr n, s.events.head? = some (.memRead addr n) ∧ 2 ^ 32 < addr.toNat + n) ∨
      (∃ addr bytes, s.events.head? = some (.memWrite addr bytes) ∧ 2 ^ 32 < addr.toNat + bytes.length) ∨
      (hostMoves s = true ∧ ∃ st, s.host.prog[s.host.pc]? = some st ∧
        ((∃ i, st = .cmd i ∧ i.wf = false) ∨ ∃ t mask l, st = .bnz t mask l ∧ labelIndex l s.host.prog = none))) ∧
    (∀ e ∈ [Event.engine, .reset], ∃ t, step (before e s) = .next t) ∧
    (∀ (addr : Word) (n : Nat), addr.toNat + n ≤ 2 ^ 32 →
      step (before (.memRead addr n) s) = .next { s with
        response := some (.bytes ((List.range n).map fun k =>
          (readByte s.mem (addr.toNat + k)).getD (Config.initialByte (addr.toNat + k)))) }) ∧
    ∀ (addr : Word) (bytes : List Byte), addr.toNat + bytes.length ≤ 2 ^ 32 →
      ∃ t, step (before (.memWrite addr bytes) s) = .next t ∧
        (∀ k, k < bytes.length → readByte t.mem (addr.toNat + k) = bytes[k]?) ∧
        (∀ a, a < addr.toNat ∨ addr.toNat + bytes.length ≤ a → readByte t.mem a = readByte s.mem a) ∧
        t = { s with mem := t.mem, response := some .done }

/-- From every state of the invariant with a command pending and no turn fixed, whatever a well-formed host program does meanwhile and
whatever the replies are, there is a later state in which the command has ended (R93, R90). It rests on the model's choice of log 5
for the free-running part: before each engine step the host has an open but finite number of turns, the model's form of R93's weak
fairness. -/
def Obligations.EveryAcceptedCommandEnds : Prop :=
  ∀ s : State, Inv s → hostWf s.host = true → s.events = [] → s.pending ≠ none →
    ∃ n t, runSteps n s = .next t ∧ t.pending = none

/-- R93, the number of engine steps: one for every command but MAP, at most W*H for MAP; here with only engine turns fixed. -/
def Obligations.EngineStepsAreBounded : Prop :=
  ∀ (s : State) (p : Pending), Inv s → s.pending = some p →
    (p.instr ≠ .map → ∃ t, step (before .engine s) = .next t ∧ t.pending = none) ∧
    (p.instr = .map → ∀ k, k + p.index = s.params.w * s.params.h →
      ∃ n t, n ≤ k ∧ runSteps n { s with events := List.replicate k .engine } = .next t ∧ t.pending = none)

/-- R122 and R121: a MAP whose writes all get `ok` writes exactly its W*H words in W*H engine steps. Every pixel's word is the palette
colour of its canvas cell, every byte outside those words reads as before, and the canvas and everything else is unchanged. -/
def Obligations.MapWritesExactlyItsPixels : Prop :=
  ∀ (s : State) (p : Pending) (rs : List BusReply), Inv s → s.pending = some p → p.instr = .map → p.index = 0 →
    s.replies = List.replicate (s.params.w * s.params.h) .ok ++ rs →
    ∃ t, runSteps (s.params.w * s.params.h)
        { s with events := List.replicate (s.params.w * s.params.h) .engine } = .next t ∧
      (∀ x y k, x < s.params.w → y < s.params.h → k < 4 →
        readByte t.mem (pixelAddr p.base p.stride x y + k) = some ((pixelColour s x y).extractLsb' (8 * k) 8)) ∧
      (∀ a, (∀ x y, x < s.params.w → y < s.params.h →
          a < pixelAddr p.base p.stride x y ∨ pixelAddr p.base p.stride x y + 4 ≤ a) →
        readByte t.mem a = readByte s.mem a) ∧
      t = { s with mem := t.mem, replies := rs, events := [], pending := none, errCode := .ok, done := true }

/-- R120 with R92 and R130. A MAP whose first `k` writes get `ok` and whose next one gets `err` ends with BUS_ERROR in `k + 1` engine
steps. The words of the pixels before pixel `k` in row-major order are written; pixel `k`'s word is MAP's or what it was, as the reply
says, and both replies are admitted (R51); every byte outside these words reads as before. -/
def Obligations.AbortedMapWritesAPrefix : Prop :=
  ∀ (s : State) (p : Pending) (k : Nat) (landed : Bool) (rs : List BusReply), Inv s → s.pending = some p → p.instr = .map →
    p.index = 0 → k < s.params.w * s.params.h → s.replies = List.replicate k .ok ++ .err landed :: rs →
    let addr (n : Nat) : Nat := pixelAddr p.base p.stride (n % s.params.w) (n / s.params.w)
    let colour (n : Nat) : Word := pixelColour s (n % s.params.w) (n / s.params.w)
    ErrCode.busError.bits = 0x0C ∧
    ∃ t, runSteps (k + 1) { s with events := List.replicate (k + 1) .engine } = .next t ∧
      (∀ n b, n < k → b < 4 → readByte t.mem (addr n + b) = some ((colour n).extractLsb' (8 * b) 8)) ∧
      (∀ b, b < 4 → readByte t.mem (addr k + b) =
        if landed = true then some ((colour k).extractLsb' (8 * b) 8) else readByte s.mem (addr k + b)) ∧
      (∀ a, (∀ n, n ≤ k → a < addr n ∨ addr n + 4 ≤ a) → readByte t.mem a = readByte s.mem a) ∧
      t = { s with
        mem := t.mem, replies := rs, events := [], pending := none, errCode := .busError, err := s.err ||| 0b000001
        done := true }

/-- R110. Accepted SPLATs one after another leave in every canvas cell min(255, c0 + the LUT values they put on it), and every
permutation of them leaves the same canvas. -/
def Obligations.SplatOrderDoesNotMatter : Prop :=
  ∀ (s : State) (ps : List (Nat × Nat)), Inv s → s.pending = none → s.palComplete = true → s.canvasInit = true →
    s.lutValid = true → (∀ q ∈ ps, q.1 + s.lutDiam.toNat ≤ s.params.w ∧ q.2 + s.lutDiam.toNat ≤ s.params.h) →
    ∃ t, issueAll (ps.map fun q => .splat q.1 q.2) s = .next t ∧
      (∀ x y, x < s.params.w → y < s.params.h →
        (canvasCell t x y).toNat = min 255 ((canvasCell s x y).toNat +
          (ps.map fun q =>
            if q.1 ≤ x ∧ x < q.1 + s.lutDiam.toNat ∧ q.2 ≤ y ∧ y < q.2 + s.lutDiam.toNat then
              (lutCell s (x - q.1) (y - q.2)).toNat
            else 0).sum)) ∧
      ∀ qs : List (Nat × Nat), qs.Perm ps →
        ∃ u, issueAll (qs.map fun q => .splat q.1 q.2) s = .next u ∧ u.canvas = t.canvas

/-- R39, R40, R65, R99: while LUT_VALID = 1, no step but a reset changes the LUT, its diameter or LUT_VALID; and whatever LUT_VALID,
only BUILD_LUT's engine step or a reset changes the LUT. -/
def Obligations.OnlyBuildLutAndResetChangeTheLut : Prop :=
  ∀ s t : State, step s = .next t →
    (t.lut ≠ s.lut ∨ t.lutDiam ≠ s.lutDiam ∨ t.lutValid ≠ s.lutValid →
      resetsNow s ∨ (engineMoves s = true ∧ ∃ p d, s.pending = some p ∧ p.instr = .buildLut d)) ∧
    (Inv s → s.lutValid = true → ¬ resetsNow s → t.lut = s.lut ∧ t.lutDiam = s.lutDiam ∧ t.lutValid = true)

/-- R39: the canvas is written only by CLEAR, ADDSAT and SPLAT (and made unspecified by a reset). -/
def Obligations.OnlyThreeCommandsWriteTheCanvas : Prop :=
  ∀ s t : State, step s = .next t → t.canvas ≠ s.canvas →
    resetsNow s ∨ (engineMoves s = true ∧ ∃ p, s.pending = some p ∧
      (p.instr = .clear ∨ (∃ x y, p.instr = .addsat x y) ∨ ∃ x y, p.instr = .splat x y))

/-- R49: the MBSA writes the external memory only during MAP: a byte changes only in a MAP's engine step, in a reset that stops a MAP, or
by a host write; and an engine step of MAP changes only the four bytes of its pixel. -/
def Obligations.ExternalMemoryChangesOnlyByMapOrHost : Prop :=
  ∀ s t : State, step s = .next t → t.mem ≠ s.mem →
    memoryWrittenNow s ∨
    ∃ p, s.pending = some p ∧ p.instr = .map ∧ (engineMoves s = true ∨ resetsNow s) ∧
      ∀ a, a < nextPixelAddr p s ∨ nextPixelAddr p s + 4 ≤ a → readByte t.mem a = readByte s.mem a

/-- R25, R113, R114, R27, R26, R6: what only a reset can undo. PAL_COMPLETE, LUT_VALID and CANVAS_INIT are cleared by a reset alone; a
complete palette never changes but by a reset; DONE is cleared only by a reset or a 1 written to INT bit 0; an ERR bit only by a
reset or a 1 written to it; the build parameters never change. -/
def Obligations.OnlyResetClearsReadinessFlags : Prop :=
  ∀ s t : State, step s = .next t →
    t.params = s.params ∧
    (¬ resetsNow s →
      (s.palComplete = true → t.palComplete = true ∧ t.pal = s.pal ∧ t.palMask = s.palMask ∧ t.palCount = s.palCount) ∧
      (s.canvasInit = true → t.canvasInit = true) ∧
      (s.lutValid = true → t.lutValid = true) ∧
      (s.done = true → t.done = false → ∃ v, writesNow s = some (.int, v) ∧ v.getLsbD 0 = true) ∧
      ∀ b, s.err.getLsbD b = true → t.err.getLsbD b = false →
        ∃ v, writesNow s = some (.err, v) ∧ v.getLsbD b = true)

/-- R39, R40, I2, I3: what the canvas holds before the first CLEAR, and the LUT before BUILD_LUT, cannot be observed. From two states
that differ only there, one step gives answers that differ only there. -/
def Obligations.HiddenMemoriesAreNotObservable : Prop :=
  ∀ (s t : State) (canvas lut : List (Nat × Byte)), (∀ p, s.pending = some p → pendingReady p s = true) →
    let hide (u : State) (c l : List (Nat × Byte)) : State :=
      { u with canvas := if u.canvasInit = true then u.canvas else c, lut := if u.lutValid = true then u.lut else l }
    step s = .next t →
    ∃ c l, step (hide s canvas lut) = .next (hide t c l)

/-- R62 and R152. A host access of MAP's next output word races with it, and both orders of turns are runs of the model: a host read
sees MAP's word or what was there, written or not (a free value where nothing has written, log 3); after a host write of the word it
holds MAP's bytes or the host's. -/
def Obligations.HostAccessRacesWithMap : Prop :=
  ∀ (s : State) (p : Pending), Inv s → s.pending = some p → p.instr = .map → nextReply s = .ok →
    let addr : Word := BitVec.ofNat 32 (nextPixelAddr p s)
    let word : List Byte := wordBytes (nextPixelColour p s)
    (∃ t, runSteps 2 (before .engine (before (.memRead addr 4) s)) = .next t ∧ t.response = some (.bytes word)) ∧
    (∃ t, runSteps 2 (before (.memRead addr 4) (before .engine s)) = .next t ∧
      t.response = some (.bytes (readBytes s.mem (nextPixelAddr p s) 4))) ∧
    ∀ v : Word,
      (∃ t, runSteps 2 (before .engine (before (.memWrite addr (wordBytes v)) s)) = .next t ∧
        readBytes t.mem addr.toNat 4 = wordBytes v) ∧
      ∃ t, runSteps 2 (before (.memWrite addr (wordBytes v)) (before .engine s)) = .next t ∧
        readBytes t.mem addr.toNat 4 = word

/-- R149. A CMD write that does not wait for a pending one-step command has two outcomes, one per order of turns: the engine first, and
the write is checked in the state the command left; or the write first, and its word is dropped with ERR.CMD_OVERRUN. -/
def Obligations.UnwaitedCommandHasTwoOutcomes : Prop :=
  ∀ (s : State) (p : Pending) (i : Instr), s.pending = some p → p.instr ≠ .map → i.wf = true →
    (∃ u, exec p.instr s = .next u ∧ u.pending = none ∧
      runSteps 2 (before .engine (before (.write 32 0x024 (encode i)) s)) =
        exec i { u with response := some .done }) ∧
    runSteps 2 (before (.write 32 0x024 (encode i)) (before .engine s)) =
      exec p.instr { s with err := s.err ||| 0b000010, response := some .done }

/-- R138 and R156. When the run has ended (the host program is through, no turn is fixed, and BUSY = 0), a step changes nothing. -/
def Obligations.EndedRunStaysAsItIs : Prop :=
  ∀ s : State, s.host.prog.length ≤ s.host.pc → s.events = [] → s.pending = none →
    runEnded s = true ∧ step s = .next s
end

