-- ==== Sys2Proof/Laws/Keyed.lean ====
section
/-! SUPPORT. Keyed lists: a read after a write, the keys stay rising, and two lists with rising keys that read the same are
equal. Every memory of the model rests on these. -/

namespace Sys2Proof.Machine

variable {α : Type}

/-- A read after a write gives the value written at that key, and what was there at every other. -/
theorem findKey_insertKey (m : List (Nat × α)) (a b : Nat) (v : α) :
    findKey (insertKey m a v) b = if a = b then some v else findKey m b := by
  induction m with
  | nil => simp [insertKey, findKey]
  | cons e t ih =>
    obtain ⟨k, w⟩ := e
    by_cases hlt : a < k
    · simp [insertKey, findKey, hlt]
    · by_cases heq : a = k
      · subst heq; by_cases hb : a = b <;> simp [insertKey, findKey, hb]
      · by_cases hk : k = b
        · subst hk
          simp [insertKey, findKey, hlt, heq]
        · simp [insertKey, findKey, hlt, heq, hk, ih]

/-- A read after an erasure. -/
theorem findKey_eraseKey (m : List (Nat × α)) (a b : Nat) :
    findKey (eraseKey m a) b = if a = b then none else findKey m b := by
  induction m with
  | nil => simp [eraseKey, findKey]
  | cons e t ih =>
    obtain ⟨k, w⟩ := e
    by_cases hka : k = a
    · subst hka
      have hdrop : eraseKey ((k, w) :: t) k = eraseKey t k := by simp [eraseKey]
      rw [hdrop, ih]
      by_cases hb : k = b <;> simp [findKey, hb]
    · by_cases hk : k = b
      · subst hk
        have : a ≠ k := fun h => hka h.symm
        simp [eraseKey, findKey, hka, this]
      · simp [eraseKey, findKey, hka, hk, ih]

theorem mem_insertKey {m : List (Nat × α)} {a : Nat} {v : α} {e : Nat × α} (h : e ∈ insertKey m a v) :
    e = (a, v) ∨ e ∈ m := by
  induction m with
  | nil => simpa [insertKey] using h
  | cons d t ih =>
    obtain ⟨k, w⟩ := d
    by_cases hlt : a < k
    · simpa [insertKey, hlt] using h
    · by_cases heq : a = k
      · subst heq
        simp only [insertKey, Nat.lt_irrefl, if_false, if_true] at h
        rcases List.mem_cons.1 h with h | h
        · exact .inl h
        · exact .inr (List.mem_cons_of_mem _ h)
      · simp only [insertKey, hlt, heq, if_false] at h
        rcases List.mem_cons.1 h with h | h
        · exact .inr (by simp [h])
        · rcases ih h with h | h
          · exact .inl h
          · exact .inr (List.mem_cons_of_mem _ h)

theorem mem_eraseKey {m : List (Nat × α)} {a : Nat} {e : Nat × α} (h : e ∈ eraseKey m a) : e ∈ m := by
  induction m with
  | nil => simp [eraseKey] at h
  | cons d t ih =>
    obtain ⟨k, w⟩ := d
    by_cases hk : k = a
    · simp only [eraseKey, hk, if_true] at h
      exact List.mem_cons_of_mem _ (ih h)
    · simp only [eraseKey, hk, if_false] at h
      rcases List.mem_cons.1 h with h | h
      · simp [h]
      · exact List.mem_cons_of_mem _ (ih h)

/-- A write keeps the keys rising. -/
theorem risingKeys_insertKey {m : List (Nat × α)} (h : risingKeys m) (a : Nat) (v : α) :
    risingKeys (insertKey m a v) := by
  induction m with
  | nil => simp [insertKey, risingKeys]
  | cons d t ih =>
    obtain ⟨k, w⟩ := d
    obtain ⟨hd, ht⟩ := List.pairwise_cons.1 h
    by_cases hlt : a < k
    · simp only [insertKey, hlt, if_true]
      refine List.pairwise_cons.2 ⟨fun e he => ?_, h⟩
      rcases List.mem_cons.1 he with he | he
      · simpa [he] using hlt
      · exact Nat.lt_trans hlt (hd e he)
    · by_cases heq : a = k
      · subst heq
        simp only [insertKey, if_true, Nat.lt_irrefl, if_false]
        exact List.pairwise_cons.2 ⟨hd, ht⟩
      · simp only [insertKey, hlt, heq, if_false]
        refine List.pairwise_cons.2 ⟨fun e he => ?_, ih ht⟩
        rcases mem_insertKey he with he | he
        · simp only [he]; omega
        · exact hd e he

/-- An erasure keeps the keys rising. -/
theorem risingKeys_eraseKey {m : List (Nat × α)} (h : risingKeys m) (a : Nat) : risingKeys (eraseKey m a) := by
  induction m with
  | nil => simp [eraseKey]
  | cons d t ih =>
    obtain ⟨k, w⟩ := d
    obtain ⟨hd, ht⟩ := List.pairwise_cons.1 h
    by_cases hk : k = a
    · simpa only [eraseKey, hk, if_true] using ih ht
    · simp only [eraseKey, hk, if_false]
      exact List.pairwise_cons.2 ⟨fun e he => hd e (mem_eraseKey he), ih ht⟩

/-- After the erasure of a key no entry has it. -/
theorem ne_of_mem_eraseKey {m : List (Nat × α)} {a : Nat} {e : Nat × α} (h : e ∈ eraseKey m a) : e.1 ≠ a := by
  induction m with
  | nil => simp [eraseKey] at h
  | cons d t ih =>
    obtain ⟨k, w⟩ := d
    by_cases hk : k = a
    · simp only [eraseKey, hk, if_true] at h; exact ih h
    · simp only [eraseKey, hk, if_false] at h
      rcases List.mem_cons.1 h with h | h
      · simpa [h] using hk
      · exact ih h

/-- Nothing is found under a key below every key. -/
theorem findKey_eq_none {m : List (Nat × α)} {a : Nat} (h : ∀ e ∈ m, e.1 ≠ a) : findKey m a = none := by
  induction m with
  | nil => rfl
  | cons d t ih =>
    obtain ⟨k, w⟩ := d
    have hk : k ≠ a := h (k, w) (by simp)
    simp [findKey, hk, ih fun e he => h e (List.mem_cons_of_mem _ he)]

/-- What is found is listed. -/
theorem mem_of_findKey {m : List (Nat × α)} {a : Nat} {v : α} (h : findKey m a = some v) : (a, v) ∈ m := by
  induction m with
  | nil => simp [findKey] at h
  | cons d t ih =>
    obtain ⟨k, w⟩ := d
    by_cases hk : k = a
    · simp_all [findKey]
    · simp only [findKey, hk, if_false] at h
      exact List.mem_cons_of_mem _ (ih h)

/-- With rising keys, what is listed is found. -/
theorem findKey_of_mem {m : List (Nat × α)} (hm : risingKeys m) {a : Nat} {v : α} (h : (a, v) ∈ m) :
    findKey m a = some v := by
  induction m with
  | nil => simp at h
  | cons d t ih =>
    obtain ⟨k, w⟩ := d
    obtain ⟨hd, ht⟩ := List.pairwise_cons.1 hm
    rcases List.mem_cons.1 h with h | h
    · simp [findKey, Prod.mk.injEq] at *; simp [h]
    · have : k ≠ a := by have := hd _ h; simp at this; omega
      simp [findKey, this, ih ht h]

/-- Two lists with rising keys that read the same under every key are equal: equal memories are equal data. -/
theorem eq_of_findKey_eq {m n : List (Nat × α)} (hm : risingKeys m) (hn : risingKeys n)
    (h : ∀ a, findKey m a = findKey n a) : m = n := by
  refine List.Perm.eq_of_pairwise (le := fun p q => p.1 < q.1) ?_ hm hn ?_
  · intro a b _ _ h1 h2
    omega
  · have nodup : ∀ {l : List (Nat × α)}, risingKeys l → l.Nodup := fun hl =>
      hl.imp fun h he => by simp [he] at h
    refine (List.perm_ext_iff_of_nodup (nodup hm) (nodup hn)).2 fun e => ?_
    constructor
    · intro he; exact mem_of_findKey ((h e.1) ▸ findKey_of_mem hm he)
    · intro he; exact mem_of_findKey ((h e.1) ▸ findKey_of_mem hn he)

end Sys2Proof.Machine
end

