-- ==== Sys2Proof/Laws/Cells.lean ====
section
/-! SUPPORT. The canvas and the LUT: reading a cell after each operation on them, and the canonical form kept. -/

namespace Sys2Proof.Machine

theorem cellAt_setCell (m : List (Nat × Byte)) (a b : Nat) (v : Byte) :
    cellAt (setCell m a v) b = if a = b then v else cellAt m b := by
  unfold cellAt setCell
  by_cases hv : v = 0
  · rw [if_pos hv, findKey_eraseKey]; by_cases hab : a = b <;> simp [hv, hab]
  · rw [if_neg hv, findKey_insertKey]; by_cases hab : a = b <;> simp [hab]

theorem setCell_wf {size : Nat} {m : List (Nat × Byte)} (h : cellsWf size m) {a : Nat} (ha : a < size) (v : Byte) :
    cellsWf size (setCell m a v) := by
  unfold setCell
  split
  · exact ⟨risingKeys_eraseKey h.1 a, fun e he => h.2 e (mem_eraseKey he)⟩
  · refine ⟨risingKeys_insertKey h.1 a v, fun e he => ?_⟩
    rcases mem_insertKey he with he | he
    · subst he; exact ⟨ha, ‹_›⟩
    · exact h.2 e he

/-- Two cell memories in canonical form with the same cells are equal. -/
theorem eq_of_cellAt_eq {size : Nat} {m n : List (Nat × Byte)} (hm : cellsWf size m) (hn : cellsWf size n)
    (h : ∀ k, cellAt m k = cellAt n k) : m = n := by
  refine eq_of_findKey_eq hm.1 hn.1 fun a => ?_
  have key : ∀ {l : List (Nat × Byte)}, cellsWf size l → ∀ {v : Byte}, findKey l a = some v → v ≠ 0 :=
    fun hl _ hv => (hl.2 _ (mem_of_findKey hv)).2
  have ha := h a
  unfold cellAt at ha
  cases hma : findKey m a <;> cases hna : findKey n a <;> simp only [hma, hna, Option.getD_none, Option.getD_some] at ha
  · rfl
  · exact absurd ha.symm (key hn hna)
  · exact absurd ha (key hm hma)
  · rw [ha]

@[simp] theorem toNat_sat8 (v : Nat) : (sat8 v).toNat = min 255 v := by
  have : min 255 v < 256 := by omega
  simp [sat8, BitVec.toNat_ofNat, Nat.mod_eq_of_lt this]

/-- Distinct positions of a canvas have distinct indices (R13). -/
theorem canvasIndex_inj {w x y x' y' : Nat} (hx : x < w) (hx' : x' < w) :
    canvasIndex w x y = canvasIndex w x' y' ↔ x = x' ∧ y = y' := by
  unfold canvasIndex
  constructor
  · intro h
    have hy : y = y' := by
      have h1 : (y * w + x) / w = y := by
        rw [Nat.mul_comm, Nat.mul_add_div (by omega), Nat.div_eq_of_lt hx, Nat.add_zero]
      have h2 : (y' * w + x') / w = y' := by
        rw [Nat.mul_comm, Nat.mul_add_div (by omega), Nat.div_eq_of_lt hx', Nat.add_zero]
      rw [← h1, ← h2, h]
    subst hy
    exact ⟨by omega, rfl⟩
  · rintro ⟨rfl, rfl⟩; rfl

theorem canvasIndex_lt {w h x y : Nat} (hx : x < w) (hy : y < h) : canvasIndex w x y < w * h := by
  unfold canvasIndex
  calc y * w + x < y * w + w := by omega
    _ = (y + 1) * w := by ring
    _ ≤ h * w := Nat.mul_le_mul_right _ hy
    _ = w * h := Nat.mul_comm _ _

/-- R102 at a cell: the cell itself gets the saturated sum. -/
theorem cellAt_addsatCell (w : Nat) (c : List (Nat × Byte)) (x y : Nat) (v : Byte) (k : Nat) :
    cellAt (addsatCell w c x y v) k =
      if canvasIndex w x y = k then sat8 ((cellAt c k).toNat + v.toNat) else cellAt c k := by
  unfold addsatCell
  rw [cellAt_setCell]
  by_cases h : canvasIndex w x y = k <;> simp [h]

theorem addsatCell_wf {w h : Nat} {c : List (Nat × Byte)} (hc : cellsWf (w * h) c) {x y : Nat} (hx : x < w) (hy : y < h)
    (v : Byte) : cellsWf (w * h) (addsatCell w c x y v) :=
  setCell_wf hc (canvasIndex_lt hx hy) _

/-- One row of a splat, read at a cell of the canvas: the row's cells get one contribution each. -/
theorem cellAt_splatRow (w x y : Nat) (row : Nat → Byte) (d : Nat) (hd : x + d ≤ w) (c : List (Nat × Byte))
    (x' y' : Nat) (hx' : x' < w) :
    cellAt (splatRow w d x y row c) (canvasIndex w x' y') =
      if y' = y ∧ x ≤ x' ∧ x' < x + d then sat8 ((cellAt c (canvasIndex w x' y')).toNat + (row (x' - x)).toNat)
      else cellAt c (canvasIndex w x' y') := by
  induction d with
  | zero => simp [splatRow]
  | succ d ih =>
    have hstep : splatRow w (d + 1) x y row c = addsatCell w (splatRow w d x y row c) (x + d) y (row d) := by
      simp [splatRow, List.range_succ]
    rw [hstep, cellAt_addsatCell, ih (by omega)]
    simp only [canvasIndex_inj (show x + d < w by omega) hx']
    by_cases hhit : x + d = x' ∧ y = y'
    · obtain ⟨rfl, rfl⟩ := hhit
      simp
    · have hiff : (y' = y ∧ x ≤ x' ∧ x' < x + (d + 1)) ↔ (y' = y ∧ x ≤ x' ∧ x' < x + d) := by omega
      simp only [hhit, if_false, hiff]

/-- A splat, read at a cell of the canvas (R109): every cell of the footprint gets exactly one contribution, and every other
cell is unchanged. -/
theorem cellAt_splatted (w d x y : Nat) (hx : x + d ≤ w) (lut c : List (Nat × Byte)) (x' y' : Nat) (hx' : x' < w) :
    cellAt (splatted w d x y lut c) (canvasIndex w x' y') =
      if x ≤ x' ∧ x' < x + d ∧ y ≤ y' ∧ y' < y + d then
        sat8 ((cellAt c (canvasIndex w x' y')).toNat + (cellAt lut (lutIndex d (x' - x) (y' - y))).toNat)
      else cellAt c (canvasIndex w x' y') := by
  suffices h : ∀ n, cellAt ((List.range n).foldl
      (fun c j => splatRow w d x (y + j) (fun i => cellAt lut (lutIndex d i j)) c) c) (canvasIndex w x' y') =
      if x ≤ x' ∧ x' < x + d ∧ y ≤ y' ∧ y' < y + n then
        sat8 ((cellAt c (canvasIndex w x' y')).toNat + (cellAt lut (lutIndex d (x' - x) (y' - y))).toNat)
      else cellAt c (canvasIndex w x' y') from h d
  intro n
  induction n with
  | zero => simp
  | succ n ih =>
    rw [List.range_succ, List.foldl_append, List.foldl_cons, List.foldl_nil, cellAt_splatRow _ _ _ _ _ hx _ _ _ hx', ih]
    by_cases hrow : y' = y + n ∧ x ≤ x' ∧ x' < x + d
    · obtain ⟨rfl, h1, h2⟩ := hrow
      simp [h1, h2]
    · have hiff : (x ≤ x' ∧ x' < x + d ∧ y ≤ y' ∧ y' < y + (n + 1)) ↔ (x ≤ x' ∧ x' < x + d ∧ y ≤ y' ∧ y' < y + n) := by
        omega
      simp only [hrow, if_false, hiff]

theorem splatRow_wf {w h x y : Nat} (row : Nat → Byte) (d : Nat) (hx : x + d ≤ w) (hy : y < h) {c : List (Nat × Byte)}
    (hc : cellsWf (w * h) c) : cellsWf (w * h) (splatRow w d x y row c) := by
  induction d with
  | zero => simpa [splatRow] using hc
  | succ d ih =>
    rw [splatRow, List.range_succ, List.foldl_append]
    exact addsatCell_wf (ih (by omega)) (by omega) hy _

/-- A splat that fits keeps the canvas's canonical form. -/
theorem splatted_wf {w h d x y : Nat} (hx : x + d ≤ w) (hy : y + d ≤ h) (lut : List (Nat × Byte)) {c : List (Nat × Byte)}
    (hc : cellsWf (w * h) c) : cellsWf (w * h) (splatted w d x y lut c) := by
  suffices hs : ∀ n, n ≤ d → cellsWf (w * h) ((List.range n).foldl
      (fun c j => splatRow w d x (y + j) (fun i => cellAt lut (lutIndex d i j)) c) c) from hs d (Nat.le_refl d)
  intro n hn
  induction n with
  | zero => simpa using hc
  | succ n ih =>
    rw [List.range_succ, List.foldl_append]
    exact splatRow_wf _ d hx (by omega) (ih (by omega))

/-- A key of `range n` filtered and mapped is found exactly where the filter lets it through. -/
theorem findKey_filterMap_range (f : Nat → Option Byte) (n k : Nat) :
    findKey ((List.range n).filterMap fun a => (f a).map fun v => (a, v)) k = if k < n then f k else none := by
  induction n with
  | zero => simp [findKey]
  | succ n ih =>
    have happend : ∀ (l r : List (Nat × Byte)), findKey (l ++ r) k = (findKey l k).or (findKey r k) := by
      intro l r
      induction l with
      | nil => simp [findKey]
      | cons e t iht => obtain ⟨a, v⟩ := e; by_cases h : a = k <;> simp [findKey, h, iht]
    rw [List.range_succ, List.filterMap_append, happend, ih]
    by_cases hk : k < n
    · have hk1 : k < n + 1 := by omega
      have hne : n ≠ k := by omega
      cases hn : f n <;> simp [hk, hk1, hn, findKey, hne]
    · by_cases hkn : k = n
      · subst hkn
        cases hn : f k <;> simp [hn, findKey]
      · have hk1 : ¬ k < n + 1 := by omega
        have hne : n ≠ k := by omega
        cases hn : f n <;> simp [hk, hk1, hn, findKey, hne]

/-- R100: every cell of the table reads its energy, and there is no other cell. -/
theorem cellAt_builtLut (d k : Nat) : cellAt (builtLut d) k = if k < d * d then lutValue d (k % d) (k / d) else 0 := by
  have hform : builtLut d = (List.range (d * d)).filterMap fun a =>
      (if lutValue d (a % d) (a / d) = 0 then none else some (lutValue d (a % d) (a / d))).map fun v => (a, v) := by
    unfold builtLut
    congr 1
    funext a
    split <;> rfl
  rw [hform, cellAt, findKey_filterMap_range]
  by_cases hk : k < d * d
  · rw [if_pos hk, if_pos hk]
    split
    · next hz => exact hz.symm
    · rfl
  · rw [if_neg hk, if_neg hk]; rfl

/-- R100 by column and row. -/
theorem cellAt_builtLut_index {d i j : Nat} (hi : i < d) (hj : j < d) :
    cellAt (builtLut d) (lutIndex d i j) = lutValue d i j := by
  have hlt : lutIndex d i j < d * d := canvasIndex_lt hi hj
  have hmod : lutIndex d i j % d = i := by
    unfold lutIndex; rw [Nat.add_comm, Nat.add_mul_mod_self_right, Nat.mod_eq_of_lt hi]
  have hdiv : lutIndex d i j / d = j := by
    unfold lutIndex; rw [Nat.mul_comm, Nat.mul_add_div (by omega), Nat.div_eq_of_lt hi, Nat.add_zero]
  rw [cellAt_builtLut, if_pos hlt, hmod, hdiv]

/-- The table is a cell memory of D×D cells in canonical form (R40). -/
theorem builtLut_wf (d : Nat) : cellsWf (d * d) (builtLut d) := by
  constructor
  · refine List.Pairwise.filterMap _ (R := fun a b => a < b) ?_ List.pairwise_lt_range
    intro a b hab e he e' he'
    split at he <;> split at he' <;> simp_all
    subst he; subst he'; simpa using hab
  · intro e he
    obtain ⟨a, ha, hae⟩ := List.mem_filterMap.1 he
    split at hae
    · simp at hae
    · simp only [Option.some.injEq] at hae
      subst hae
      exact ⟨List.mem_range.1 ha, ‹_›⟩

theorem falloff_le (r sq : Nat) : falloff r sq ≤ 255 := by
  unfold falloff; split <;> omega

/-- The energy is stored exactly: it fits a cell (R97 law 1). -/
theorem toNat_lutValue (d i j : Nat) : (lutValue d i j).toNat = falloff (radius d) (sqDist (radius d) i j) := by
  have := falloff_le (radius d) (sqDist (radius d) i j)
  simp only [lutValue, BitVec.toNat_ofNat]
  omega

end Sys2Proof.Machine
end

