-- ==== Sys2Proof/Laws/State.lean ====
section
/-! SUPPORT. For each named update of State, what every field holds after it: one lemma per field per update, true by
`rfl`, so that no later proof unfolds a record update. -/

namespace Sys2Proof.Machine

/-! ### setErr -/

@[simp] theorem setErr_params (b : BitVec 6) (s : State) : (s.setErr b).params = s.params := rfl
@[simp] theorem setErr_irqEn (b : BitVec 6) (s : State) : (s.setErr b).irqEn = s.irqEn := rfl
@[simp] theorem setErr_palComplete (b : BitVec 6) (s : State) : (s.setErr b).palComplete = s.palComplete := rfl
@[simp] theorem setErr_lutValid (b : BitVec 6) (s : State) : (s.setErr b).lutValid = s.lutValid := rfl
@[simp] theorem setErr_canvasInit (b : BitVec 6) (s : State) : (s.setErr b).canvasInit = s.canvasInit := rfl
@[simp] theorem setErr_errCode (b : BitVec 6) (s : State) : (s.setErr b).errCode = s.errCode := rfl
@[simp] theorem setErr_lastOp (b : BitVec 6) (s : State) : (s.setErr b).lastOp = s.lastOp := rfl
@[simp] theorem setErr_err (b : BitVec 6) (s : State) : (s.setErr b).err = s.err ||| b := rfl
@[simp] theorem setErr_done (b : BitVec 6) (s : State) : (s.setErr b).done = s.done := rfl
@[simp] theorem setErr_cmdArg (b : BitVec 6) (s : State) : (s.setErr b).cmdArg = s.cmdArg := rfl
@[simp] theorem setErr_outBase (b : BitVec 6) (s : State) : (s.setErr b).outBase = s.outBase := rfl
@[simp] theorem setErr_outStride (b : BitVec 6) (s : State) : (s.setErr b).outStride = s.outStride := rfl
@[simp] theorem setErr_lutDiam (b : BitVec 6) (s : State) : (s.setErr b).lutDiam = s.lutDiam := rfl
@[simp] theorem setErr_canvasX (b : BitVec 6) (s : State) : (s.setErr b).canvasX = s.canvasX := rfl
@[simp] theorem setErr_canvasY (b : BitVec 6) (s : State) : (s.setErr b).canvasY = s.canvasY := rfl
@[simp] theorem setErr_lutI (b : BitVec 6) (s : State) : (s.setErr b).lutI = s.lutI := rfl
@[simp] theorem setErr_lutJ (b : BitVec 6) (s : State) : (s.setErr b).lutJ = s.lutJ := rfl
@[simp] theorem setErr_palCount (b : BitVec 6) (s : State) : (s.setErr b).palCount = s.palCount := rfl
@[simp] theorem setErr_palMask (b : BitVec 6) (s : State) : (s.setErr b).palMask = s.palMask := rfl
@[simp] theorem setErr_canvas (b : BitVec 6) (s : State) : (s.setErr b).canvas = s.canvas := rfl
@[simp] theorem setErr_lut (b : BitVec 6) (s : State) : (s.setErr b).lut = s.lut := rfl
@[simp] theorem setErr_pal (b : BitVec 6) (s : State) : (s.setErr b).pal = s.pal := rfl
@[simp] theorem setErr_pending (b : BitVec 6) (s : State) : (s.setErr b).pending = s.pending := rfl
@[simp] theorem setErr_mem (b : BitVec 6) (s : State) : (s.setErr b).mem = s.mem := rfl
@[simp] theorem setErr_host (b : BitVec 6) (s : State) : (s.setErr b).host = s.host := rfl
@[simp] theorem setErr_events (b : BitVec 6) (s : State) : (s.setErr b).events = s.events := rfl
@[simp] theorem setErr_replies (b : BitVec 6) (s : State) : (s.setErr b).replies = s.replies := rfl
@[simp] theorem setErr_response (b : BitVec 6) (s : State) : (s.setErr b).response = s.response := rfl
@[simp] theorem setErr_freeIdx (b : BitVec 6) (s : State) : (s.setErr b).freeIdx = s.freeIdx := rfl
@[simp] theorem setErr_waited (b : BitVec 6) (s : State) : (s.setErr b).waited = s.waited := rfl

/-! ### respond -/

@[simp] theorem respond_params (r : Response) (s : State) : (respond r s).params = s.params := rfl
@[simp] theorem respond_irqEn (r : Response) (s : State) : (respond r s).irqEn = s.irqEn := rfl
@[simp] theorem respond_palComplete (r : Response) (s : State) : (respond r s).palComplete = s.palComplete := rfl
@[simp] theorem respond_lutValid (r : Response) (s : State) : (respond r s).lutValid = s.lutValid := rfl
@[simp] theorem respond_canvasInit (r : Response) (s : State) : (respond r s).canvasInit = s.canvasInit := rfl
@[simp] theorem respond_errCode (r : Response) (s : State) : (respond r s).errCode = s.errCode := rfl
@[simp] theorem respond_lastOp (r : Response) (s : State) : (respond r s).lastOp = s.lastOp := rfl
@[simp] theorem respond_err (r : Response) (s : State) : (respond r s).err = s.err := rfl
@[simp] theorem respond_done (r : Response) (s : State) : (respond r s).done = s.done := rfl
@[simp] theorem respond_cmdArg (r : Response) (s : State) : (respond r s).cmdArg = s.cmdArg := rfl
@[simp] theorem respond_outBase (r : Response) (s : State) : (respond r s).outBase = s.outBase := rfl
@[simp] theorem respond_outStride (r : Response) (s : State) : (respond r s).outStride = s.outStride := rfl
@[simp] theorem respond_lutDiam (r : Response) (s : State) : (respond r s).lutDiam = s.lutDiam := rfl
@[simp] theorem respond_canvasX (r : Response) (s : State) : (respond r s).canvasX = s.canvasX := rfl
@[simp] theorem respond_canvasY (r : Response) (s : State) : (respond r s).canvasY = s.canvasY := rfl
@[simp] theorem respond_lutI (r : Response) (s : State) : (respond r s).lutI = s.lutI := rfl
@[simp] theorem respond_lutJ (r : Response) (s : State) : (respond r s).lutJ = s.lutJ := rfl
@[simp] theorem respond_palCount (r : Response) (s : State) : (respond r s).palCount = s.palCount := rfl
@[simp] theorem respond_palMask (r : Response) (s : State) : (respond r s).palMask = s.palMask := rfl
@[simp] theorem respond_canvas (r : Response) (s : State) : (respond r s).canvas = s.canvas := rfl
@[simp] theorem respond_lut (r : Response) (s : State) : (respond r s).lut = s.lut := rfl
@[simp] theorem respond_pal (r : Response) (s : State) : (respond r s).pal = s.pal := rfl
@[simp] theorem respond_pending (r : Response) (s : State) : (respond r s).pending = s.pending := rfl
@[simp] theorem respond_mem (r : Response) (s : State) : (respond r s).mem = s.mem := rfl
@[simp] theorem respond_host (r : Response) (s : State) : (respond r s).host = s.host := rfl
@[simp] theorem respond_events (r : Response) (s : State) : (respond r s).events = s.events := rfl
@[simp] theorem respond_replies (r : Response) (s : State) : (respond r s).replies = s.replies := rfl
@[simp] theorem respond_response (r : Response) (s : State) : (respond r s).response = some r := rfl
@[simp] theorem respond_freeIdx (r : Response) (s : State) : (respond r s).freeIdx = s.freeIdx := rfl
@[simp] theorem respond_waited (r : Response) (s : State) : (respond r s).waited = s.waited := rfl

/-! ### overrun -/

@[simp] theorem overrun_params (s : State) : (overrun s).params = s.params := rfl
@[simp] theorem overrun_irqEn (s : State) : (overrun s).irqEn = s.irqEn := rfl
@[simp] theorem overrun_palComplete (s : State) : (overrun s).palComplete = s.palComplete := rfl
@[simp] theorem overrun_lutValid (s : State) : (overrun s).lutValid = s.lutValid := rfl
@[simp] theorem overrun_canvasInit (s : State) : (overrun s).canvasInit = s.canvasInit := rfl
@[simp] theorem overrun_errCode (s : State) : (overrun s).errCode = s.errCode := rfl
@[simp] theorem overrun_lastOp (s : State) : (overrun s).lastOp = s.lastOp := rfl
@[simp] theorem overrun_err (s : State) : (overrun s).err = s.err ||| errCmdOverrun := rfl
@[simp] theorem overrun_done (s : State) : (overrun s).done = s.done := rfl
@[simp] theorem overrun_cmdArg (s : State) : (overrun s).cmdArg = s.cmdArg := rfl
@[simp] theorem overrun_outBase (s : State) : (overrun s).outBase = s.outBase := rfl
@[simp] theorem overrun_outStride (s : State) : (overrun s).outStride = s.outStride := rfl
@[simp] theorem overrun_lutDiam (s : State) : (overrun s).lutDiam = s.lutDiam := rfl
@[simp] theorem overrun_canvasX (s : State) : (overrun s).canvasX = s.canvasX := rfl
@[simp] theorem overrun_canvasY (s : State) : (overrun s).canvasY = s.canvasY := rfl
@[simp] theorem overrun_lutI (s : State) : (overrun s).lutI = s.lutI := rfl
@[simp] theorem overrun_lutJ (s : State) : (overrun s).lutJ = s.lutJ := rfl
@[simp] theorem overrun_palCount (s : State) : (overrun s).palCount = s.palCount := rfl
@[simp] theorem overrun_palMask (s : State) : (overrun s).palMask = s.palMask := rfl
@[simp] theorem overrun_canvas (s : State) : (overrun s).canvas = s.canvas := rfl
@[simp] theorem overrun_lut (s : State) : (overrun s).lut = s.lut := rfl
@[simp] theorem overrun_pal (s : State) : (overrun s).pal = s.pal := rfl
@[simp] theorem overrun_pending (s : State) : (overrun s).pending = s.pending := rfl
@[simp] theorem overrun_mem (s : State) : (overrun s).mem = s.mem := rfl
@[simp] theorem overrun_host (s : State) : (overrun s).host = s.host := rfl
@[simp] theorem overrun_events (s : State) : (overrun s).events = s.events := rfl
@[simp] theorem overrun_replies (s : State) : (overrun s).replies = s.replies := rfl
@[simp] theorem overrun_response (s : State) : (overrun s).response = s.response := rfl
@[simp] theorem overrun_freeIdx (s : State) : (overrun s).freeIdx = s.freeIdx := rfl
@[simp] theorem overrun_waited (s : State) : (overrun s).waited = s.waited := rfl

/-! ### reject -/

@[simp] theorem reject_params (c : ErrCode) (op : BitVec 4) (s : State) : (reject c op s).params = s.params := rfl
@[simp] theorem reject_irqEn (c : ErrCode) (op : BitVec 4) (s : State) : (reject c op s).irqEn = s.irqEn := rfl
@[simp] theorem reject_palComplete (c : ErrCode) (op : BitVec 4) (s : State) : (reject c op s).palComplete = s.palComplete := rfl
@[simp] theorem reject_lutValid (c : ErrCode) (op : BitVec 4) (s : State) : (reject c op s).lutValid = s.lutValid := rfl
@[simp] theorem reject_canvasInit (c : ErrCode) (op : BitVec 4) (s : State) : (reject c op s).canvasInit = s.canvasInit := rfl
@[simp] theorem reject_errCode (c : ErrCode) (op : BitVec 4) (s : State) : (reject c op s).errCode = c := rfl
@[simp] theorem reject_lastOp (c : ErrCode) (op : BitVec 4) (s : State) : (reject c op s).lastOp = op := rfl
@[simp] theorem reject_err (c : ErrCode) (op : BitVec 4) (s : State) : (reject c op s).err = s.err ||| errCmdErr := rfl
@[simp] theorem reject_done (c : ErrCode) (op : BitVec 4) (s : State) : (reject c op s).done = true := rfl
@[simp] theorem reject_cmdArg (c : ErrCode) (op : BitVec 4) (s : State) : (reject c op s).cmdArg = s.cmdArg := rfl
@[simp] theorem reject_outBase (c : ErrCode) (op : BitVec 4) (s : State) : (reject c op s).outBase = s.outBase := rfl
@[simp] theorem reject_outStride (c : ErrCode) (op : BitVec 4) (s : State) : (reject c op s).outStride = s.outStride := rfl
@[simp] theorem reject_lutDiam (c : ErrCode) (op : BitVec 4) (s : State) : (reject c op s).lutDiam = s.lutDiam := rfl
@[simp] theorem reject_canvasX (c : ErrCode) (op : BitVec 4) (s : State) : (reject c op s).canvasX = s.canvasX := rfl
@[simp] theorem reject_canvasY (c : ErrCode) (op : BitVec 4) (s : State) : (reject c op s).canvasY = s.canvasY := rfl
@[simp] theorem reject_lutI (c : ErrCode) (op : BitVec 4) (s : State) : (reject c op s).lutI = s.lutI := rfl
@[simp] theorem reject_lutJ (c : ErrCode) (op : BitVec 4) (s : State) : (reject c op s).lutJ = s.lutJ := rfl
@[simp] theorem reject_palCount (c : ErrCode) (op : BitVec 4) (s : State) : (reject c op s).palCount = s.palCount := rfl
@[simp] theorem reject_palMask (c : ErrCode) (op : BitVec 4) (s : State) : (reject c op s).palMask = s.palMask := rfl
@[simp] theorem reject_canvas (c : ErrCode) (op : BitVec 4) (s : State) : (reject c op s).canvas = s.canvas := rfl
@[simp] theorem reject_lut (c : ErrCode) (op : BitVec 4) (s : State) : (reject c op s).lut = s.lut := rfl
@[simp] theorem reject_pal (c : ErrCode) (op : BitVec 4) (s : State) : (reject c op s).pal = s.pal := rfl
@[simp] theorem reject_pending (c : ErrCode) (op : BitVec 4) (s : State) : (reject c op s).pending = s.pending := rfl
@[simp] theorem reject_mem (c : ErrCode) (op : BitVec 4) (s : State) : (reject c op s).mem = s.mem := rfl
@[simp] theorem reject_host (c : ErrCode) (op : BitVec 4) (s : State) : (reject c op s).host = s.host := rfl
@[simp] theorem reject_events (c : ErrCode) (op : BitVec 4) (s : State) : (reject c op s).events = s.events := rfl
@[simp] theorem reject_replies (c : ErrCode) (op : BitVec 4) (s : State) : (reject c op s).replies = s.replies := rfl
@[simp] theorem reject_response (c : ErrCode) (op : BitVec 4) (s : State) : (reject c op s).response = s.response := rfl
@[simp] theorem reject_freeIdx (c : ErrCode) (op : BitVec 4) (s : State) : (reject c op s).freeIdx = s.freeIdx := rfl
@[simp] theorem reject_waited (c : ErrCode) (op : BitVec 4) (s : State) : (reject c op s).waited = s.waited := rfl

/-! ### accept -/

@[simp] theorem accept_params (i : Instr) (s : State) : (accept i s).params = s.params := rfl
@[simp] theorem accept_irqEn (i : Instr) (s : State) : (accept i s).irqEn = s.irqEn := rfl
@[simp] theorem accept_palComplete (i : Instr) (s : State) : (accept i s).palComplete = s.palComplete := rfl
@[simp] theorem accept_lutValid (i : Instr) (s : State) : (accept i s).lutValid = s.lutValid := rfl
@[simp] theorem accept_canvasInit (i : Instr) (s : State) : (accept i s).canvasInit = s.canvasInit := rfl
@[simp] theorem accept_errCode (i : Instr) (s : State) : (accept i s).errCode = .ok := rfl
@[simp] theorem accept_lastOp (i : Instr) (s : State) : (accept i s).lastOp = i.opcode := rfl
@[simp] theorem accept_err (i : Instr) (s : State) : (accept i s).err = s.err := rfl
@[simp] theorem accept_done (i : Instr) (s : State) : (accept i s).done = s.done := rfl
@[simp] theorem accept_cmdArg (i : Instr) (s : State) : (accept i s).cmdArg = s.cmdArg := rfl
@[simp] theorem accept_outBase (i : Instr) (s : State) : (accept i s).outBase = s.outBase := rfl
@[simp] theorem accept_outStride (i : Instr) (s : State) : (accept i s).outStride = s.outStride := rfl
@[simp] theorem accept_lutDiam (i : Instr) (s : State) : (accept i s).lutDiam = s.lutDiam := rfl
@[simp] theorem accept_canvasX (i : Instr) (s : State) : (accept i s).canvasX = s.canvasX := rfl
@[simp] theorem accept_canvasY (i : Instr) (s : State) : (accept i s).canvasY = s.canvasY := rfl
@[simp] theorem accept_lutI (i : Instr) (s : State) : (accept i s).lutI = s.lutI := rfl
@[simp] theorem accept_lutJ (i : Instr) (s : State) : (accept i s).lutJ = s.lutJ := rfl
@[simp] theorem accept_palCount (i : Instr) (s : State) : (accept i s).palCount = s.palCount := rfl
@[simp] theorem accept_palMask (i : Instr) (s : State) : (accept i s).palMask = s.palMask := rfl
@[simp] theorem accept_canvas (i : Instr) (s : State) : (accept i s).canvas = s.canvas := rfl
@[simp] theorem accept_lut (i : Instr) (s : State) : (accept i s).lut = s.lut := rfl
@[simp] theorem accept_pal (i : Instr) (s : State) : (accept i s).pal = s.pal := rfl
@[simp] theorem accept_pending (i : Instr) (s : State) : (accept i s).pending = some (capture i s) := rfl
@[simp] theorem accept_mem (i : Instr) (s : State) : (accept i s).mem = s.mem := rfl
@[simp] theorem accept_host (i : Instr) (s : State) : (accept i s).host = s.host := rfl
@[simp] theorem accept_events (i : Instr) (s : State) : (accept i s).events = s.events := rfl
@[simp] theorem accept_replies (i : Instr) (s : State) : (accept i s).replies = s.replies := rfl
@[simp] theorem accept_response (i : Instr) (s : State) : (accept i s).response = s.response := rfl
@[simp] theorem accept_freeIdx (i : Instr) (s : State) : (accept i s).freeIdx = s.freeIdx := rfl
@[simp] theorem accept_waited (i : Instr) (s : State) : (accept i s).waited = s.waited := rfl

/-! ### complete -/

@[simp] theorem complete_params (c : ErrCode) (s : State) : (complete c s).params = s.params := rfl
@[simp] theorem complete_irqEn (c : ErrCode) (s : State) : (complete c s).irqEn = s.irqEn := rfl
@[simp] theorem complete_palComplete (c : ErrCode) (s : State) : (complete c s).palComplete = s.palComplete := rfl
@[simp] theorem complete_lutValid (c : ErrCode) (s : State) : (complete c s).lutValid = s.lutValid := rfl
@[simp] theorem complete_canvasInit (c : ErrCode) (s : State) : (complete c s).canvasInit = s.canvasInit := rfl
@[simp] theorem complete_errCode (c : ErrCode) (s : State) : (complete c s).errCode = c := rfl
@[simp] theorem complete_lastOp (c : ErrCode) (s : State) : (complete c s).lastOp = s.lastOp := rfl
@[simp] theorem complete_err (c : ErrCode) (s : State) : (complete c s).err = if c = .ok then s.err else s.err ||| errCmdErr := rfl
@[simp] theorem complete_done (c : ErrCode) (s : State) : (complete c s).done = true := rfl
@[simp] theorem complete_cmdArg (c : ErrCode) (s : State) : (complete c s).cmdArg = s.cmdArg := rfl
@[simp] theorem complete_outBase (c : ErrCode) (s : State) : (complete c s).outBase = s.outBase := rfl
@[simp] theorem complete_outStride (c : ErrCode) (s : State) : (complete c s).outStride = s.outStride := rfl
@[simp] theorem complete_lutDiam (c : ErrCode) (s : State) : (complete c s).lutDiam = s.lutDiam := rfl
@[simp] theorem complete_canvasX (c : ErrCode) (s : State) : (complete c s).canvasX = s.canvasX := rfl
@[simp] theorem complete_canvasY (c : ErrCode) (s : State) : (complete c s).canvasY = s.canvasY := rfl
@[simp] theorem complete_lutI (c : ErrCode) (s : State) : (complete c s).lutI = s.lutI := rfl
@[simp] theorem complete_lutJ (c : ErrCode) (s : State) : (complete c s).lutJ = s.lutJ := rfl
@[simp] theorem complete_palCount (c : ErrCode) (s : State) : (complete c s).palCount = s.palCount := rfl
@[simp] theorem complete_palMask (c : ErrCode) (s : State) : (complete c s).palMask = s.palMask := rfl
@[simp] theorem complete_canvas (c : ErrCode) (s : State) : (complete c s).canvas = s.canvas := rfl
@[simp] theorem complete_lut (c : ErrCode) (s : State) : (complete c s).lut = s.lut := rfl
@[simp] theorem complete_pal (c : ErrCode) (s : State) : (complete c s).pal = s.pal := rfl
@[simp] theorem complete_pending (c : ErrCode) (s : State) : (complete c s).pending = none := rfl
@[simp] theorem complete_mem (c : ErrCode) (s : State) : (complete c s).mem = s.mem := rfl
@[simp] theorem complete_host (c : ErrCode) (s : State) : (complete c s).host = s.host := rfl
@[simp] theorem complete_events (c : ErrCode) (s : State) : (complete c s).events = s.events := rfl
@[simp] theorem complete_replies (c : ErrCode) (s : State) : (complete c s).replies = s.replies := rfl
@[simp] theorem complete_response (c : ErrCode) (s : State) : (complete c s).response = s.response := rfl
@[simp] theorem complete_freeIdx (c : ErrCode) (s : State) : (complete c s).freeIdx = s.freeIdx := rfl
@[simp] theorem complete_waited (c : ErrCode) (s : State) : (complete c s).waited = s.waited := rfl

/-! ### dropEvent -/

@[simp] theorem dropEvent_params (s : State) : (dropEvent s).params = s.params := rfl
@[simp] theorem dropEvent_irqEn (s : State) : (dropEvent s).irqEn = s.irqEn := rfl
@[simp] theorem dropEvent_palComplete (s : State) : (dropEvent s).palComplete = s.palComplete := rfl
@[simp] theorem dropEvent_lutValid (s : State) : (dropEvent s).lutValid = s.lutValid := rfl
@[simp] theorem dropEvent_canvasInit (s : State) : (dropEvent s).canvasInit = s.canvasInit := rfl
@[simp] theorem dropEvent_errCode (s : State) : (dropEvent s).errCode = s.errCode := rfl
@[simp] theorem dropEvent_lastOp (s : State) : (dropEvent s).lastOp = s.lastOp := rfl
@[simp] theorem dropEvent_err (s : State) : (dropEvent s).err = s.err := rfl
@[simp] theorem dropEvent_done (s : State) : (dropEvent s).done = s.done := rfl
@[simp] theorem dropEvent_cmdArg (s : State) : (dropEvent s).cmdArg = s.cmdArg := rfl
@[simp] theorem dropEvent_outBase (s : State) : (dropEvent s).outBase = s.outBase := rfl
@[simp] theorem dropEvent_outStride (s : State) : (dropEvent s).outStride = s.outStride := rfl
@[simp] theorem dropEvent_lutDiam (s : State) : (dropEvent s).lutDiam = s.lutDiam := rfl
@[simp] theorem dropEvent_canvasX (s : State) : (dropEvent s).canvasX = s.canvasX := rfl
@[simp] theorem dropEvent_canvasY (s : State) : (dropEvent s).canvasY = s.canvasY := rfl
@[simp] theorem dropEvent_lutI (s : State) : (dropEvent s).lutI = s.lutI := rfl
@[simp] theorem dropEvent_lutJ (s : State) : (dropEvent s).lutJ = s.lutJ := rfl
@[simp] theorem dropEvent_palCount (s : State) : (dropEvent s).palCount = s.palCount := rfl
@[simp] theorem dropEvent_palMask (s : State) : (dropEvent s).palMask = s.palMask := rfl
@[simp] theorem dropEvent_canvas (s : State) : (dropEvent s).canvas = s.canvas := rfl
@[simp] theorem dropEvent_lut (s : State) : (dropEvent s).lut = s.lut := rfl
@[simp] theorem dropEvent_pal (s : State) : (dropEvent s).pal = s.pal := rfl
@[simp] theorem dropEvent_pending (s : State) : (dropEvent s).pending = s.pending := rfl
@[simp] theorem dropEvent_mem (s : State) : (dropEvent s).mem = s.mem := rfl
@[simp] theorem dropEvent_host (s : State) : (dropEvent s).host = s.host := rfl
@[simp] theorem dropEvent_events (s : State) : (dropEvent s).events = s.events.tail := rfl
@[simp] theorem dropEvent_replies (s : State) : (dropEvent s).replies = s.replies := rfl
@[simp] theorem dropEvent_response (s : State) : (dropEvent s).response = s.response := rfl
@[simp] theorem dropEvent_freeIdx (s : State) : (dropEvent s).freeIdx = s.freeIdx := rfl
@[simp] theorem dropEvent_waited (s : State) : (dropEvent s).waited = s.waited := rfl

/-! ### nextDelay -/

@[simp] theorem nextDelay_params (s : State) : (nextDelay s).params = s.params := rfl
@[simp] theorem nextDelay_irqEn (s : State) : (nextDelay s).irqEn = s.irqEn := rfl
@[simp] theorem nextDelay_palComplete (s : State) : (nextDelay s).palComplete = s.palComplete := rfl
@[simp] theorem nextDelay_lutValid (s : State) : (nextDelay s).lutValid = s.lutValid := rfl
@[simp] theorem nextDelay_canvasInit (s : State) : (nextDelay s).canvasInit = s.canvasInit := rfl
@[simp] theorem nextDelay_errCode (s : State) : (nextDelay s).errCode = s.errCode := rfl
@[simp] theorem nextDelay_lastOp (s : State) : (nextDelay s).lastOp = s.lastOp := rfl
@[simp] theorem nextDelay_err (s : State) : (nextDelay s).err = s.err := rfl
@[simp] theorem nextDelay_done (s : State) : (nextDelay s).done = s.done := rfl
@[simp] theorem nextDelay_cmdArg (s : State) : (nextDelay s).cmdArg = s.cmdArg := rfl
@[simp] theorem nextDelay_outBase (s : State) : (nextDelay s).outBase = s.outBase := rfl
@[simp] theorem nextDelay_outStride (s : State) : (nextDelay s).outStride = s.outStride := rfl
@[simp] theorem nextDelay_lutDiam (s : State) : (nextDelay s).lutDiam = s.lutDiam := rfl
@[simp] theorem nextDelay_canvasX (s : State) : (nextDelay s).canvasX = s.canvasX := rfl
@[simp] theorem nextDelay_canvasY (s : State) : (nextDelay s).canvasY = s.canvasY := rfl
@[simp] theorem nextDelay_lutI (s : State) : (nextDelay s).lutI = s.lutI := rfl
@[simp] theorem nextDelay_lutJ (s : State) : (nextDelay s).lutJ = s.lutJ := rfl
@[simp] theorem nextDelay_palCount (s : State) : (nextDelay s).palCount = s.palCount := rfl
@[simp] theorem nextDelay_palMask (s : State) : (nextDelay s).palMask = s.palMask := rfl
@[simp] theorem nextDelay_canvas (s : State) : (nextDelay s).canvas = s.canvas := rfl
@[simp] theorem nextDelay_lut (s : State) : (nextDelay s).lut = s.lut := rfl
@[simp] theorem nextDelay_pal (s : State) : (nextDelay s).pal = s.pal := rfl
@[simp] theorem nextDelay_pending (s : State) : (nextDelay s).pending = s.pending := rfl
@[simp] theorem nextDelay_mem (s : State) : (nextDelay s).mem = s.mem := rfl
@[simp] theorem nextDelay_host (s : State) : (nextDelay s).host = s.host := rfl
@[simp] theorem nextDelay_events (s : State) : (nextDelay s).events = s.events := rfl
@[simp] theorem nextDelay_replies (s : State) : (nextDelay s).replies = s.replies := rfl
@[simp] theorem nextDelay_response (s : State) : (nextDelay s).response = s.response := rfl
@[simp] theorem nextDelay_freeIdx (s : State) : (nextDelay s).freeIdx = s.freeIdx + 1 := rfl
@[simp] theorem nextDelay_waited (s : State) : (nextDelay s).waited = 0 := rfl

/-! ### countWait -/

@[simp] theorem countWait_params (s : State) : (countWait s).params = s.params := rfl
@[simp] theorem countWait_irqEn (s : State) : (countWait s).irqEn = s.irqEn := rfl
@[simp] theorem countWait_palComplete (s : State) : (countWait s).palComplete = s.palComplete := rfl
@[simp] theorem countWait_lutValid (s : State) : (countWait s).lutValid = s.lutValid := rfl
@[simp] theorem countWait_canvasInit (s : State) : (countWait s).canvasInit = s.canvasInit := rfl
@[simp] theorem countWait_errCode (s : State) : (countWait s).errCode = s.errCode := rfl
@[simp] theorem countWait_lastOp (s : State) : (countWait s).lastOp = s.lastOp := rfl
@[simp] theorem countWait_err (s : State) : (countWait s).err = s.err := rfl
@[simp] theorem countWait_done (s : State) : (countWait s).done = s.done := rfl
@[simp] theorem countWait_cmdArg (s : State) : (countWait s).cmdArg = s.cmdArg := rfl
@[simp] theorem countWait_outBase (s : State) : (countWait s).outBase = s.outBase := rfl
@[simp] theorem countWait_outStride (s : State) : (countWait s).outStride = s.outStride := rfl
@[simp] theorem countWait_lutDiam (s : State) : (countWait s).lutDiam = s.lutDiam := rfl
@[simp] theorem countWait_canvasX (s : State) : (countWait s).canvasX = s.canvasX := rfl
@[simp] theorem countWait_canvasY (s : State) : (countWait s).canvasY = s.canvasY := rfl
@[simp] theorem countWait_lutI (s : State) : (countWait s).lutI = s.lutI := rfl
@[simp] theorem countWait_lutJ (s : State) : (countWait s).lutJ = s.lutJ := rfl
@[simp] theorem countWait_palCount (s : State) : (countWait s).palCount = s.palCount := rfl
@[simp] theorem countWait_palMask (s : State) : (countWait s).palMask = s.palMask := rfl
@[simp] theorem countWait_canvas (s : State) : (countWait s).canvas = s.canvas := rfl
@[simp] theorem countWait_lut (s : State) : (countWait s).lut = s.lut := rfl
@[simp] theorem countWait_pal (s : State) : (countWait s).pal = s.pal := rfl
@[simp] theorem countWait_pending (s : State) : (countWait s).pending = s.pending := rfl
@[simp] theorem countWait_mem (s : State) : (countWait s).mem = s.mem := rfl
@[simp] theorem countWait_host (s : State) : (countWait s).host = s.host := rfl
@[simp] theorem countWait_events (s : State) : (countWait s).events = s.events := rfl
@[simp] theorem countWait_replies (s : State) : (countWait s).replies = s.replies := rfl
@[simp] theorem countWait_response (s : State) : (countWait s).response = s.response := rfl
@[simp] theorem countWait_freeIdx (s : State) : (countWait s).freeIdx = s.freeIdx := rfl
@[simp] theorem countWait_waited (s : State) : (countWait s).waited = s.waited + 1 := rfl

/-! ### advanceHost -/

@[simp] theorem advanceHost_params (s : State) : (advanceHost s).params = s.params := rfl
@[simp] theorem advanceHost_irqEn (s : State) : (advanceHost s).irqEn = s.irqEn := rfl
@[simp] theorem advanceHost_palComplete (s : State) : (advanceHost s).palComplete = s.palComplete := rfl
@[simp] theorem advanceHost_lutValid (s : State) : (advanceHost s).lutValid = s.lutValid := rfl
@[simp] theorem advanceHost_canvasInit (s : State) : (advanceHost s).canvasInit = s.canvasInit := rfl
@[simp] theorem advanceHost_errCode (s : State) : (advanceHost s).errCode = s.errCode := rfl
@[simp] theorem advanceHost_lastOp (s : State) : (advanceHost s).lastOp = s.lastOp := rfl
@[simp] theorem advanceHost_err (s : State) : (advanceHost s).err = s.err := rfl
@[simp] theorem advanceHost_done (s : State) : (advanceHost s).done = s.done := rfl
@[simp] theorem advanceHost_cmdArg (s : State) : (advanceHost s).cmdArg = s.cmdArg := rfl
@[simp] theorem advanceHost_outBase (s : State) : (advanceHost s).outBase = s.outBase := rfl
@[simp] theorem advanceHost_outStride (s : State) : (advanceHost s).outStride = s.outStride := rfl
@[simp] theorem advanceHost_lutDiam (s : State) : (advanceHost s).lutDiam = s.lutDiam := rfl
@[simp] theorem advanceHost_canvasX (s : State) : (advanceHost s).canvasX = s.canvasX := rfl
@[simp] theorem advanceHost_canvasY (s : State) : (advanceHost s).canvasY = s.canvasY := rfl
@[simp] theorem advanceHost_lutI (s : State) : (advanceHost s).lutI = s.lutI := rfl
@[simp] theorem advanceHost_lutJ (s : State) : (advanceHost s).lutJ = s.lutJ := rfl
@[simp] theorem advanceHost_palCount (s : State) : (advanceHost s).palCount = s.palCount := rfl
@[simp] theorem advanceHost_palMask (s : State) : (advanceHost s).palMask = s.palMask := rfl
@[simp] theorem advanceHost_canvas (s : State) : (advanceHost s).canvas = s.canvas := rfl
@[simp] theorem advanceHost_lut (s : State) : (advanceHost s).lut = s.lut := rfl
@[simp] theorem advanceHost_pal (s : State) : (advanceHost s).pal = s.pal := rfl
@[simp] theorem advanceHost_pending (s : State) : (advanceHost s).pending = s.pending := rfl
@[simp] theorem advanceHost_mem (s : State) : (advanceHost s).mem = s.mem := rfl
@[simp] theorem advanceHost_host (s : State) : (advanceHost s).host = { s.host with pc := s.host.pc + 1 } := rfl
@[simp] theorem advanceHost_events (s : State) : (advanceHost s).events = s.events := rfl
@[simp] theorem advanceHost_replies (s : State) : (advanceHost s).replies = s.replies := rfl
@[simp] theorem advanceHost_response (s : State) : (advanceHost s).response = s.response := rfl
@[simp] theorem advanceHost_freeIdx (s : State) : (advanceHost s).freeIdx = s.freeIdx := rfl
@[simp] theorem advanceHost_waited (s : State) : (advanceHost s).waited = s.waited := rfl

/-! ### setTemp -/

@[simp] theorem setTemp_params (t : Nat) (v : Word) (s : State) : (setTemp t v s).params = s.params := rfl
@[simp] theorem setTemp_irqEn (t : Nat) (v : Word) (s : State) : (setTemp t v s).irqEn = s.irqEn := rfl
@[simp] theorem setTemp_palComplete (t : Nat) (v : Word) (s : State) : (setTemp t v s).palComplete = s.palComplete := rfl
@[simp] theorem setTemp_lutValid (t : Nat) (v : Word) (s : State) : (setTemp t v s).lutValid = s.lutValid := rfl
@[simp] theorem setTemp_canvasInit (t : Nat) (v : Word) (s : State) : (setTemp t v s).canvasInit = s.canvasInit := rfl
@[simp] theorem setTemp_errCode (t : Nat) (v : Word) (s : State) : (setTemp t v s).errCode = s.errCode := rfl
@[simp] theorem setTemp_lastOp (t : Nat) (v : Word) (s : State) : (setTemp t v s).lastOp = s.lastOp := rfl
@[simp] theorem setTemp_err (t : Nat) (v : Word) (s : State) : (setTemp t v s).err = s.err := rfl
@[simp] theorem setTemp_done (t : Nat) (v : Word) (s : State) : (setTemp t v s).done = s.done := rfl
@[simp] theorem setTemp_cmdArg (t : Nat) (v : Word) (s : State) : (setTemp t v s).cmdArg = s.cmdArg := rfl
@[simp] theorem setTemp_outBase (t : Nat) (v : Word) (s : State) : (setTemp t v s).outBase = s.outBase := rfl
@[simp] theorem setTemp_outStride (t : Nat) (v : Word) (s : State) : (setTemp t v s).outStride = s.outStride := rfl
@[simp] theorem setTemp_lutDiam (t : Nat) (v : Word) (s : State) : (setTemp t v s).lutDiam = s.lutDiam := rfl
@[simp] theorem setTemp_canvasX (t : Nat) (v : Word) (s : State) : (setTemp t v s).canvasX = s.canvasX := rfl
@[simp] theorem setTemp_canvasY (t : Nat) (v : Word) (s : State) : (setTemp t v s).canvasY = s.canvasY := rfl
@[simp] theorem setTemp_lutI (t : Nat) (v : Word) (s : State) : (setTemp t v s).lutI = s.lutI := rfl
@[simp] theorem setTemp_lutJ (t : Nat) (v : Word) (s : State) : (setTemp t v s).lutJ = s.lutJ := rfl
@[simp] theorem setTemp_palCount (t : Nat) (v : Word) (s : State) : (setTemp t v s).palCount = s.palCount := rfl
@[simp] theorem setTemp_palMask (t : Nat) (v : Word) (s : State) : (setTemp t v s).palMask = s.palMask := rfl
@[simp] theorem setTemp_canvas (t : Nat) (v : Word) (s : State) : (setTemp t v s).canvas = s.canvas := rfl
@[simp] theorem setTemp_lut (t : Nat) (v : Word) (s : State) : (setTemp t v s).lut = s.lut := rfl
@[simp] theorem setTemp_pal (t : Nat) (v : Word) (s : State) : (setTemp t v s).pal = s.pal := rfl
@[simp] theorem setTemp_pending (t : Nat) (v : Word) (s : State) : (setTemp t v s).pending = s.pending := rfl
@[simp] theorem setTemp_mem (t : Nat) (v : Word) (s : State) : (setTemp t v s).mem = s.mem := rfl
@[simp] theorem setTemp_host (t : Nat) (v : Word) (s : State) : (setTemp t v s).host = { s.host with temps := insertKey s.host.temps t v } := rfl
@[simp] theorem setTemp_events (t : Nat) (v : Word) (s : State) : (setTemp t v s).events = s.events := rfl
@[simp] theorem setTemp_replies (t : Nat) (v : Word) (s : State) : (setTemp t v s).replies = s.replies := rfl
@[simp] theorem setTemp_response (t : Nat) (v : Word) (s : State) : (setTemp t v s).response = s.response := rfl
@[simp] theorem setTemp_freeIdx (t : Nat) (v : Word) (s : State) : (setTemp t v s).freeIdx = s.freeIdx := rfl
@[simp] theorem setTemp_waited (t : Nat) (v : Word) (s : State) : (setTemp t v s).waited = s.waited := rfl

/-! ### dropReply and putPixel -/

@[simp] theorem dropReply_params (s : State) : (dropReply s).params = s.params := by unfold dropReply; split <;> rfl
@[simp] theorem dropReply_irqEn (s : State) : (dropReply s).irqEn = s.irqEn := by unfold dropReply; split <;> rfl
@[simp] theorem dropReply_palComplete (s : State) : (dropReply s).palComplete = s.palComplete := by unfold dropReply; split <;> rfl
@[simp] theorem dropReply_lutValid (s : State) : (dropReply s).lutValid = s.lutValid := by unfold dropReply; split <;> rfl
@[simp] theorem dropReply_canvasInit (s : State) : (dropReply s).canvasInit = s.canvasInit := by unfold dropReply; split <;> rfl
@[simp] theorem dropReply_errCode (s : State) : (dropReply s).errCode = s.errCode := by unfold dropReply; split <;> rfl
@[simp] theorem dropReply_lastOp (s : State) : (dropReply s).lastOp = s.lastOp := by unfold dropReply; split <;> rfl
@[simp] theorem dropReply_err (s : State) : (dropReply s).err = s.err := by unfold dropReply; split <;> rfl
@[simp] theorem dropReply_done (s : State) : (dropReply s).done = s.done := by unfold dropReply; split <;> rfl
@[simp] theorem dropReply_cmdArg (s : State) : (dropReply s).cmdArg = s.cmdArg := by unfold dropReply; split <;> rfl
@[simp] theorem dropReply_outBase (s : State) : (dropReply s).outBase = s.outBase := by unfold dropReply; split <;> rfl
@[simp] theorem dropReply_outStride (s : State) : (dropReply s).outStride = s.outStride := by unfold dropReply; split <;> rfl
@[simp] theorem dropReply_lutDiam (s : State) : (dropReply s).lutDiam = s.lutDiam := by unfold dropReply; split <;> rfl
@[simp] theorem dropReply_canvasX (s : State) : (dropReply s).canvasX = s.canvasX := by unfold dropReply; split <;> rfl
@[simp] theorem dropReply_canvasY (s : State) : (dropReply s).canvasY = s.canvasY := by unfold dropReply; split <;> rfl
@[simp] theorem dropReply_lutI (s : State) : (dropReply s).lutI = s.lutI := by unfold dropReply; split <;> rfl
@[simp] theorem dropReply_lutJ (s : State) : (dropReply s).lutJ = s.lutJ := by unfold dropReply; split <;> rfl
@[simp] theorem dropReply_palCount (s : State) : (dropReply s).palCount = s.palCount := by unfold dropReply; split <;> rfl
@[simp] theorem dropReply_palMask (s : State) : (dropReply s).palMask = s.palMask := by unfold dropReply; split <;> rfl
@[simp] theorem dropReply_canvas (s : State) : (dropReply s).canvas = s.canvas := by unfold dropReply; split <;> rfl
@[simp] theorem dropReply_lut (s : State) : (dropReply s).lut = s.lut := by unfold dropReply; split <;> rfl
@[simp] theorem dropReply_pal (s : State) : (dropReply s).pal = s.pal := by unfold dropReply; split <;> rfl
@[simp] theorem dropReply_pending (s : State) : (dropReply s).pending = s.pending := by unfold dropReply; split <;> rfl
@[simp] theorem dropReply_mem (s : State) : (dropReply s).mem = s.mem := by unfold dropReply; split <;> rfl
@[simp] theorem dropReply_host (s : State) : (dropReply s).host = s.host := by unfold dropReply; split <;> rfl
@[simp] theorem dropReply_events (s : State) : (dropReply s).events = s.events := by unfold dropReply; split <;> rfl
@[simp] theorem dropReply_response (s : State) : (dropReply s).response = s.response := by unfold dropReply; split <;> rfl
@[simp] theorem dropReply_waited (s : State) : (dropReply s).waited = s.waited := by unfold dropReply; split <;> rfl

@[simp] theorem putPixel_params (p : Pending) (s : State) : (putPixel p s).params = s.params := dropReply_params s
@[simp] theorem putPixel_irqEn (p : Pending) (s : State) : (putPixel p s).irqEn = s.irqEn := dropReply_irqEn s
@[simp] theorem putPixel_palComplete (p : Pending) (s : State) : (putPixel p s).palComplete = s.palComplete := dropReply_palComplete s
@[simp] theorem putPixel_lutValid (p : Pending) (s : State) : (putPixel p s).lutValid = s.lutValid := dropReply_lutValid s
@[simp] theorem putPixel_canvasInit (p : Pending) (s : State) : (putPixel p s).canvasInit = s.canvasInit := dropReply_canvasInit s
@[simp] theorem putPixel_errCode (p : Pending) (s : State) : (putPixel p s).errCode = s.errCode := dropReply_errCode s
@[simp] theorem putPixel_lastOp (p : Pending) (s : State) : (putPixel p s).lastOp = s.lastOp := dropReply_lastOp s
@[simp] theorem putPixel_err (p : Pending) (s : State) : (putPixel p s).err = s.err := dropReply_err s
@[simp] theorem putPixel_done (p : Pending) (s : State) : (putPixel p s).done = s.done := dropReply_done s
@[simp] theorem putPixel_cmdArg (p : Pending) (s : State) : (putPixel p s).cmdArg = s.cmdArg := dropReply_cmdArg s
@[simp] theorem putPixel_outBase (p : Pending) (s : State) : (putPixel p s).outBase = s.outBase := dropReply_outBase s
@[simp] theorem putPixel_outStride (p : Pending) (s : State) : (putPixel p s).outStride = s.outStride := dropReply_outStride s
@[simp] theorem putPixel_lutDiam (p : Pending) (s : State) : (putPixel p s).lutDiam = s.lutDiam := dropReply_lutDiam s
@[simp] theorem putPixel_canvasX (p : Pending) (s : State) : (putPixel p s).canvasX = s.canvasX := dropReply_canvasX s
@[simp] theorem putPixel_canvasY (p : Pending) (s : State) : (putPixel p s).canvasY = s.canvasY := dropReply_canvasY s
@[simp] theorem putPixel_lutI (p : Pending) (s : State) : (putPixel p s).lutI = s.lutI := dropReply_lutI s
@[simp] theorem putPixel_lutJ (p : Pending) (s : State) : (putPixel p s).lutJ = s.lutJ := dropReply_lutJ s
@[simp] theorem putPixel_palCount (p : Pending) (s : State) : (putPixel p s).palCount = s.palCount := dropReply_palCount s
@[simp] theorem putPixel_palMask (p : Pending) (s : State) : (putPixel p s).palMask = s.palMask := dropReply_palMask s
@[simp] theorem putPixel_canvas (p : Pending) (s : State) : (putPixel p s).canvas = s.canvas := dropReply_canvas s
@[simp] theorem putPixel_lut (p : Pending) (s : State) : (putPixel p s).lut = s.lut := dropReply_lut s
@[simp] theorem putPixel_pal (p : Pending) (s : State) : (putPixel p s).pal = s.pal := dropReply_pal s
@[simp] theorem putPixel_pending (p : Pending) (s : State) : (putPixel p s).pending = s.pending := dropReply_pending s
@[simp] theorem putPixel_mem (p : Pending) (s : State) : (putPixel p s).mem =
    if landed (nextReply s) then writeWord s.mem (nextPixelAddr p s) (nextPixelColour p s) else s.mem := rfl
@[simp] theorem putPixel_host (p : Pending) (s : State) : (putPixel p s).host = s.host := dropReply_host s
@[simp] theorem putPixel_events (p : Pending) (s : State) : (putPixel p s).events = s.events := dropReply_events s
@[simp] theorem putPixel_replies (p : Pending) (s : State) : (putPixel p s).replies = (dropReply s).replies := rfl
@[simp] theorem putPixel_response (p : Pending) (s : State) : (putPixel p s).response = s.response := dropReply_response s
@[simp] theorem putPixel_freeIdx (p : Pending) (s : State) : (putPixel p s).freeIdx = (dropReply s).freeIdx := rfl
@[simp] theorem putPixel_waited (p : Pending) (s : State) : (putPixel p s).waited = s.waited := dropReply_waited s

/-! ### abandonPending and resetMachine -/

@[simp] theorem abandonPending_params (s : State) : (abandonPending s).params = s.params := by
  unfold abandonPending; split
  · split <;> simp
  · rfl
@[simp] theorem abandonPending_irqEn (s : State) : (abandonPending s).irqEn = s.irqEn := by
  unfold abandonPending; split
  · split <;> simp
  · rfl
@[simp] theorem abandonPending_palComplete (s : State) : (abandonPending s).palComplete = s.palComplete := by
  unfold abandonPending; split
  · split <;> simp
  · rfl
@[simp] theorem abandonPending_lutValid (s : State) : (abandonPending s).lutValid = s.lutValid := by
  unfold abandonPending; split
  · split <;> simp
  · rfl
@[simp] theorem abandonPending_canvasInit (s : State) : (abandonPending s).canvasInit = s.canvasInit := by
  unfold abandonPending; split
  · split <;> simp
  · rfl
@[simp] theorem abandonPending_errCode (s : State) : (abandonPending s).errCode = s.errCode := by
  unfold abandonPending; split
  · split <;> simp
  · rfl
@[simp] theorem abandonPending_lastOp (s : State) : (abandonPending s).lastOp = s.lastOp := by
  unfold abandonPending; split
  · split <;> simp
  · rfl
@[simp] theorem abandonPending_err (s : State) : (abandonPending s).err = s.err := by
  unfold abandonPending; split
  · split <;> simp
  · rfl
@[simp] theorem abandonPending_done (s : State) : (abandonPending s).done = s.done := by
  unfold abandonPending; split
  · split <;> simp
  · rfl
@[simp] theorem abandonPending_cmdArg (s : State) : (abandonPending s).cmdArg = s.cmdArg := by
  unfold abandonPending; split
  · split <;> simp
  · rfl
@[simp] theorem abandonPending_outBase (s : State) : (abandonPending s).outBase = s.outBase := by
  unfold abandonPending; split
  · split <;> simp
  · rfl
@[simp] theorem abandonPending_outStride (s : State) : (abandonPending s).outStride = s.outStride := by
  unfold abandonPending; split
  · split <;> simp
  · rfl
@[simp] theorem abandonPending_lutDiam (s : State) : (abandonPending s).lutDiam = s.lutDiam := by
  unfold abandonPending; split
  · split <;> simp
  · rfl
@[simp] theorem abandonPending_canvasX (s : State) : (abandonPending s).canvasX = s.canvasX := by
  unfold abandonPending; split
  · split <;> simp
  · rfl
@[simp] theorem abandonPending_canvasY (s : State) : (abandonPending s).canvasY = s.canvasY := by
  unfold abandonPending; split
  · split <;> simp
  · rfl
@[simp] theorem abandonPending_lutI (s : State) : (abandonPending s).lutI = s.lutI := by
  unfold abandonPending; split
  · split <;> simp
  · rfl
@[simp] theorem abandonPending_lutJ (s : State) : (abandonPending s).lutJ = s.lutJ := by
  unfold abandonPending; split
  · split <;> simp
  · rfl
@[simp] theorem abandonPending_palCount (s : State) : (abandonPending s).palCount = s.palCount := by
  unfold abandonPending; split
  · split <;> simp
  · rfl
@[simp] theorem abandonPending_palMask (s : State) : (abandonPending s).palMask = s.palMask := by
  unfold abandonPending; split
  · split <;> simp
  · rfl
@[simp] theorem abandonPending_canvas (s : State) : (abandonPending s).canvas = s.canvas := by
  unfold abandonPending; split
  · split <;> simp
  · rfl
@[simp] theorem abandonPending_lut (s : State) : (abandonPending s).lut = s.lut := by
  unfold abandonPending; split
  · split <;> simp
  · rfl
@[simp] theorem abandonPending_pal (s : State) : (abandonPending s).pal = s.pal := by
  unfold abandonPending; split
  · split <;> simp
  · rfl
@[simp] theorem abandonPending_pending (s : State) : (abandonPending s).pending = s.pending := by
  unfold abandonPending; split
  · split <;> simp
  · rfl
@[simp] theorem abandonPending_host (s : State) : (abandonPending s).host = s.host := by
  unfold abandonPending; split
  · split <;> simp
  · rfl
@[simp] theorem abandonPending_events (s : State) : (abandonPending s).events = s.events := by
  unfold abandonPending; split
  · split <;> simp
  · rfl
@[simp] theorem abandonPending_response (s : State) : (abandonPending s).response = s.response := by
  unfold abandonPending; split
  · split <;> simp
  · rfl
@[simp] theorem abandonPending_waited (s : State) : (abandonPending s).waited = s.waited := by
  unfold abandonPending; split
  · split <;> simp
  · rfl

@[simp] theorem resetMachine_params (s : State) : (resetMachine s).params = s.params := abandonPending_params s
@[simp] theorem resetMachine_irqEn (s : State) : (resetMachine s).irqEn = State.reset.irqEn := rfl
@[simp] theorem resetMachine_palComplete (s : State) : (resetMachine s).palComplete = State.reset.palComplete := rfl
@[simp] theorem resetMachine_lutValid (s : State) : (resetMachine s).lutValid = State.reset.lutValid := rfl
@[simp] theorem resetMachine_canvasInit (s : State) : (resetMachine s).canvasInit = State.reset.canvasInit := rfl
@[simp] theorem resetMachine_errCode (s : State) : (resetMachine s).errCode = State.reset.errCode := rfl
@[simp] theorem resetMachine_lastOp (s : State) : (resetMachine s).lastOp = State.reset.lastOp := rfl
@[simp] theorem resetMachine_err (s : State) : (resetMachine s).err = State.reset.err := rfl
@[simp] theorem resetMachine_done (s : State) : (resetMachine s).done = State.reset.done := rfl
@[simp] theorem resetMachine_cmdArg (s : State) : (resetMachine s).cmdArg = State.reset.cmdArg := rfl
@[simp] theorem resetMachine_outBase (s : State) : (resetMachine s).outBase = State.reset.outBase := rfl
@[simp] theorem resetMachine_outStride (s : State) : (resetMachine s).outStride = State.reset.outStride := rfl
@[simp] theorem resetMachine_lutDiam (s : State) : (resetMachine s).lutDiam = State.reset.lutDiam := rfl
@[simp] theorem resetMachine_canvasX (s : State) : (resetMachine s).canvasX = State.reset.canvasX := rfl
@[simp] theorem resetMachine_canvasY (s : State) : (resetMachine s).canvasY = State.reset.canvasY := rfl
@[simp] theorem resetMachine_lutI (s : State) : (resetMachine s).lutI = State.reset.lutI := rfl
@[simp] theorem resetMachine_lutJ (s : State) : (resetMachine s).lutJ = State.reset.lutJ := rfl
@[simp] theorem resetMachine_palCount (s : State) : (resetMachine s).palCount = State.reset.palCount := rfl
@[simp] theorem resetMachine_palMask (s : State) : (resetMachine s).palMask = State.reset.palMask := rfl
@[simp] theorem resetMachine_canvas (s : State) : (resetMachine s).canvas = State.reset.canvas := rfl
@[simp] theorem resetMachine_lut (s : State) : (resetMachine s).lut = State.reset.lut := rfl
@[simp] theorem resetMachine_pal (s : State) : (resetMachine s).pal = State.reset.pal := rfl
@[simp] theorem resetMachine_pending (s : State) : (resetMachine s).pending = State.reset.pending := rfl
@[simp] theorem resetMachine_mem (s : State) : (resetMachine s).mem = (abandonPending s).mem := rfl
@[simp] theorem resetMachine_host (s : State) : (resetMachine s).host = s.host := abandonPending_host s
@[simp] theorem resetMachine_events (s : State) : (resetMachine s).events = s.events := abandonPending_events s
@[simp] theorem resetMachine_replies (s : State) : (resetMachine s).replies = (abandonPending s).replies := rfl
@[simp] theorem resetMachine_response (s : State) : (resetMachine s).response = s.response := abandonPending_response s
@[simp] theorem resetMachine_freeIdx (s : State) : (resetMachine s).freeIdx = (abandonPending s).freeIdx := rfl
@[simp] theorem resetMachine_waited (s : State) : (resetMachine s).waited = s.waited := abandonPending_waited s

/-! ### The turn that comes next -/

@[simp] theorem dropEvent_before (e : Event) (s : State) : dropEvent (before e s) = s := rfl

/-- A step with a turn fixed is that turn on what it finds. -/
theorem step_before (e : Event) (s : State) : step (before e s) = runEvent e s := rfl

/-- A step with no turn fixed is a free-running one. -/
theorem step_of_no_events {s : State} (h : s.events = []) : step s = runFree s := by
  simp [step, turn, h]

/-- Every state with a turn fixed is `before` that turn. -/
theorem eq_before {s : State} {e : Event} {rest : List Event} (h : s.events = e :: rest) :
    s = before e (dropEvent s) := by
  cases s; cases h; rfl

@[simp] theorem busy_eq_false_iff (s : State) : s.busy = false ↔ s.pending = none := by
  cases h : s.pending <;> simp [State.busy, h]

theorem busy_of_pending {s : State} {p : Pending} (h : s.pending = some p) : s.busy = true := by
  simp [State.busy, h]

end Sys2Proof.Machine
end

