-- ==== Sys2Proof/Laws/Commands.lean ====
section
/-! SUPPORT. What a command can do, said once: its issue, its engine step, and that it always answers a next state. -/

namespace Sys2Proof.Machine

theorem command_idle {s : State} (h : s.pending = none) (i : Instr) (c : ErrCode) (f : Pending → State → State) :
    command i c f s = .next (issue i c s) := by
  simp [command, h]

theorem command_running {s : State} {p : Pending} (h : s.pending = some p) (c : ErrCode) (f : Pending → State → State) :
    command p.instr c f s = .next (f p s) := by
  simp [command, h]

theorem command_beside {s : State} {p : Pending} {i : Instr} (h : s.pending = some p) (hi : p.instr ≠ i) (c : ErrCode)
    (f : Pending → State → State) : command i c f s = .next (overrun s) := by
  simp [command, h, hi]

/-- The checks of a command at issue, each command's own (R86). -/
def checkOf (i : Instr) (s : State) : ErrCode :=
  match i with
  | .nop => .ok
  | .clear => checkClear s
  | .buildLut d => checkBuildLut d s
  | .splat x y => checkSplat x y s
  | .addsat x y => checkAddsat x y s
  | .map => checkMap s

/-- The engine's step on a pending command, each command's own (R90). -/
def effectOf (p : Pending) (s : State) : State :=
  match p.instr with
  | .nop => complete .ok s
  | .clear => complete .ok { s with canvas := clearedCanvas, canvasInit := true }
  | .buildLut d => complete .ok { s with lut := builtLut d, lutDiam := BitVec.ofNat 12 d, lutValid := true }
  | .splat x y => complete .ok { s with canvas := splatted s.params.w s.lutDiam.toNat x y s.lut s.canvas }
  | .addsat x y => complete .ok { s with canvas := addsatCell s.params.w s.canvas x y p.value }
  | .map => mapPixel p s

/-- With no command pending, `exec` is the issue. -/
theorem exec_idle {s : State} (h : s.pending = none) (i : Instr) : exec i s = .next (issue i (checkOf i s) s) := by
  cases i <;>
    simp only [exec, execNop, execClear, execBuildLut, execSplat, execAddsat, execMap, command_idle h, checkOf]

/-- With the command pending, `exec` is the engine's step. -/
theorem exec_running {s : State} {p : Pending} (h : s.pending = some p) : exec p.instr s = .next (effectOf p s) := by
  obtain ⟨i, v, b, st, n⟩ := p
  cases i <;>
    simp [exec, execNop, execClear, execBuildLut, execSplat, execAddsat, execMap, command, h, effectOf]

/-- Beside another pending command a command is an overrun (R85). -/
theorem exec_beside {s : State} {p : Pending} {i : Instr} (h : s.pending = some p) (hi : p.instr ≠ i) :
    exec i s = .next (overrun s) := by
  cases i <;>
    simp only [exec, execNop, execClear, execBuildLut, execSplat, execAddsat, execMap, command_beside h hi]

/-- Every command answers a next state, in every state. -/
theorem exec_answers (i : Instr) (s : State) : ∃ t, exec i s = .next t := by
  cases h : s.pending with
  | none => exact ⟨_, exec_idle h i⟩
  | some p =>
    by_cases hi : p.instr = i
    · subst hi; exact ⟨_, exec_running h⟩
    · exact ⟨_, exec_beside h hi⟩

/-- R84, R87, R88: an issue accepts or rejects. -/
theorem issue_cases (i : Instr) (c : ErrCode) (s : State) :
    (c = .ok ∧ issue i c s = accept i s) ∨ (c ≠ .ok ∧ issue i c s = reject c i.opcode s) := by
  by_cases h : c = .ok
  · exact .inl ⟨h, by simp [issue, h]⟩
  · exact .inr ⟨h, by simp [issue, h]⟩

/-- R119 to R121: what one step of MAP can do. -/
theorem mapPixel_cases (p : Pending) (s : State) :
    (nextReply s = .ok ∧ p.index + 1 = s.params.w * s.params.h ∧ mapPixel p s = complete .ok (putPixel p s)) ∨
    (nextReply s = .ok ∧ p.index + 1 ≠ s.params.w * s.params.h ∧
      mapPixel p s = { putPixel p s with pending := some { p with index := p.index + 1 } }) ∨
    (nextReply s ≠ .ok ∧ mapPixel p s = complete .busError (putPixel p s)) := by
  unfold mapPixel
  by_cases h : nextReply s = .ok
  · by_cases hl : p.index + 1 = s.params.w * s.params.h
    · exact .inl ⟨h, hl, by rw [if_pos h, if_pos hl]⟩
    · exact .inr (.inl ⟨h, hl, by rw [if_pos h, if_neg hl]⟩)
  · exact .inr (.inr ⟨h, by rw [if_neg h]⟩)

/-- Only the two data ports' reads change the state, and then only ERR (R34, R81). -/
theorem readReg_state (r : Reg) (s : State) : ∃ e, (readReg r s).2 = { s with err := s.err ||| e } ∧
    (r ≠ .canvasData → r ≠ .lutData → (readReg r s).2 = s) ∧ (e = 0 ∨ e = errBusyAccess ∨ e = errPortRange ∨ e = errNotInit) := by
  have plain : s = { s with err := s.err ||| 0 } := by simp
  have pick : ∀ (v : Word) (b : BitVec 6), (v, s.setErr b).2 = { s with err := s.err ||| b } := fun _ _ => rfl
  cases r
  case canvasData =>
    simp only [readReg, readCanvasData]
    split
    · exact ⟨errBusyAccess, rfl, by simp, by simp⟩
    · split
      · exact ⟨errPortRange, rfl, by simp, by simp⟩
      · split
        · exact ⟨errNotInit, rfl, by simp, by simp⟩
        · exact ⟨0, plain, by simp, by simp⟩
  case lutData =>
    simp only [readReg, readLutData]
    split
    · exact ⟨errBusyAccess, rfl, by simp, by simp⟩
    · split
      · exact ⟨errPortRange, rfl, by simp, by simp⟩
      · exact ⟨0, plain, by simp, by simp⟩
  all_goals exact ⟨0, plain, fun _ _ => rfl, .inl rfl⟩

/-- A reset that stops a MAP moves only the external memory and the replies (R140). -/
theorem abandonPending_cases (s : State) :
    (∃ p, s.pending = some p ∧ p.instr = .map ∧ abandonPending s = putPixel p s) ∨
    ((∀ p, s.pending = some p → p.instr ≠ .map) ∧ abandonPending s = s) := by
  cases h : s.pending with
  | none => exact .inr ⟨by simp, by simp [abandonPending, h]⟩
  | some p =>
    by_cases hp : p.instr = .map
    · exact .inl ⟨p, rfl, hp, by simp [abandonPending, h, hp]⟩
    · exact .inr ⟨by simpa using hp, by simp [abandonPending, h, hp]⟩

end Sys2Proof.Machine
end

