-- ==== Sys2Proof/Laws/Encoding.lean ====
section
/-! SUPPORT. The numbers of the three formats, and the fields read back from them (R68 to R70). -/

namespace Sys2Proof

/-- Concatenation as arithmetic: the low part has its own range. -/
theorem toNat_append_add {m n : Nat} (a : BitVec m) (b : BitVec n) :
    (a ++ b).toNat = a.toNat * 2 ^ n + b.toNat := by
  rw [BitVec.toNat_append, ← Nat.shiftLeft_add_eq_or_of_lt b.isLt, Nat.shiftLeft_eq]

theorem toNat_formatN (op : BitVec 4) : (formatN op).toNat = op.toNat * 2 ^ 28 := by
  have h := toNat_append_add op (0 : BitVec 28)
  have hz : (0 : BitVec 28).toNat = 0 := rfl
  have hf : (formatN op).toNat = (op ++ (0 : BitVec 28)).toNat := rfl
  omega

theorem toNat_formatD (op : BitVec 4) (d : Nat) : (formatD op d).toNat = op.toNat * 2 ^ 28 + d % 2 ^ 12 := by
  have h := toNat_append_add (op ++ (0 : BitVec 16)) (BitVec.ofNat 12 d)
  have h' := toNat_append_add op (0 : BitVec 16)
  have hz : (0 : BitVec 16).toNat = 0 := rfl
  simp only [BitVec.toNat_ofNat] at h
  have hf : (formatD op d).toNat = (op ++ (0 : BitVec 16) ++ BitVec.ofNat 12 d).toNat := rfl
  omega

theorem toNat_formatP (op : BitVec 4) (x y : Nat) :
    (formatP op x y).toNat = op.toNat * 2 ^ 28 + y % 2 ^ 12 * 2 ^ 12 + x % 2 ^ 12 := by
  have h := toNat_append_add (op ++ (0 : BitVec 4) ++ BitVec.ofNat 12 y) (BitVec.ofNat 12 x)
  have h' := toNat_append_add (op ++ (0 : BitVec 4)) (BitVec.ofNat 12 y)
  have h'' := toNat_append_add op (0 : BitVec 4)
  have hz : (0 : BitVec 4).toNat = 0 := rfl
  simp only [BitVec.toNat_ofNat] at h h'
  have hf : (formatP op x y).toNat = (op ++ (0 : BitVec 4) ++ BitVec.ofNat 12 y ++ BitVec.ofNat 12 x).toNat := rfl
  omega

theorem toNat_opField (w : Word) : (opField w).toNat = w.toNat / 2 ^ 28 := by
  have := w.isLt
  simp [opField, BitVec.extractLsb'_toNat, Nat.shiftRight_eq_div_pow]
  omega

theorem lowField_eq (w : Word) : lowField w = w.toNat % 2 ^ 12 := by
  simp [lowField, BitVec.extractLsb'_toNat]

theorem midField_eq (w : Word) : midField w = w.toNat / 2 ^ 12 % 2 ^ 12 := by
  simp [midField, BitVec.extractLsb'_toNat, Nat.shiftRight_eq_div_pow]

/-- The opcode field of an encoded command. -/
theorem opField_encode (i : Instr) : opField (encode i) = i.opcode := by
  cases i <;> apply BitVec.eq_of_toNat_eq <;>
    simp only [toNat_opField, encode, toNat_formatN, toNat_formatD, toNat_formatP, Instr.opcode, BitVec.ofNat_eq_ofNat,
      BitVec.toNat_ofNat] <;> omega

end Sys2Proof
end

