-- ==== Sys2Proof/Laws/Memory.lean ====
section
/-! SUPPORT. The external memory: a read after a write, what a write leaves alone, and that every memory operation keeps the
canonical form. -/

namespace Sys2Proof.Machine

theorem readByte_writeByte (mem : List Host.Cell) (a b : Nat) (v : Byte) :
    readByte (writeByte mem a v) b = if a = b then some v else readByte mem b :=
  findKey_insertKey mem a b v

/-- A byte outside the bytes written reads as before. -/
theorem readByte_writeBytes_outside (bs : List Byte) :
    ∀ (mem : List Host.Cell) (a b : Nat), b < a ∨ a + bs.length ≤ b →
      readByte (writeBytes mem a bs) b = readByte mem b := by
  induction bs with
  | nil => intros; rfl
  | cons v bs ih =>
    intro mem a b h
    have hlen : (v :: bs).length = bs.length + 1 := rfl
    have hab : a ≠ b := by omega
    rw [writeBytes, ih _ _ _ (by omega), readByte_writeByte, if_neg hab]

/-- A byte written reads as the byte that was written there. -/
theorem readByte_writeBytes_inside (bs : List Byte) :
    ∀ (mem : List Host.Cell) (a k : Nat), k < bs.length →
      readByte (writeBytes mem a bs) (a + k) = bs[k]? := by
  induction bs with
  | nil => intro _ _ k h; simp at h
  | cons v bs ih =>
    intro mem a k h
    have hlen : (v :: bs).length = bs.length + 1 := rfl
    cases k with
    | zero =>
      rw [writeBytes, readByte_writeBytes_outside _ _ _ _ (by omega), readByte_writeByte]
      simp
    | succ k =>
      rw [writeBytes, show a + (k + 1) = a + 1 + k by omega, ih _ _ _ (by omega)]
      simp

@[simp] theorem length_wordBytes (v : Word) : (wordBytes v).length = 4 := rfl

/-- R52: byte k of the word, little-endian. -/
theorem getElem?_wordBytes (v : Word) (k : Nat) (h : k < 4) : (wordBytes v)[k]? = some (v.extractLsb' (8 * k) 8) := by
  match k, h with
  | 0, _ => rfl
  | 1, _ => rfl
  | 2, _ => rfl
  | 3, _ => rfl

/-- R52: the four bytes of `MemWrite(addr, 4, v)`. -/
theorem readByte_writeWord_inside (mem : List Host.Cell) (addr : Nat) (v : Word) (k : Nat) (h : k < 4) :
    readByte (writeWord mem addr v) (addr + k) = some (v.extractLsb' (8 * k) 8) := by
  rw [writeWord, readByte_writeBytes_inside _ _ _ _ (by simpa using h), getElem?_wordBytes v k h]

/-- Every other byte reads as before. -/
theorem readByte_writeWord_outside (mem : List Host.Cell) (addr : Nat) (v : Word) (b : Nat)
    (h : b < addr ∨ addr + 4 ≤ b) : readByte (writeWord mem addr v) b = readByte mem b :=
  readByte_writeBytes_outside _ _ _ _ (by simpa using h)

/-- A byte that was written holds what was written. -/
theorem heldByte_of_readByte {mem : List Host.Cell} {a : Nat} {v : Byte} (h : readByte mem a = some v) :
    heldByte mem a = v := by
  simp [heldByte, h]

/-- A byte that nothing has written holds the free value of its address. -/
theorem heldByte_of_unwritten {mem : List Host.Cell} {a : Nat} (h : readByte mem a = none) :
    heldByte mem a = Config.initialByte a := by
  simp [heldByte, h]

/-- A read of several bytes is a read of each (R12). -/
theorem readBytes_eq_map (mem : List Host.Cell) (n : Nat) :
    ∀ a, readBytes mem a n = (List.range n).map fun k => heldByte mem (a + k) := by
  induction n with
  | zero => intro a; rfl
  | succ n ih =>
    intro a
    rw [readBytes, ih, List.range_succ_eq_map, List.map_cons, List.map_map]
    refine congrArg₂ List.cons rfl (List.map_congr_left fun k _ => ?_)
    rw [Function.comp_apply, Nat.add_assoc, Nat.add_comm 1 k]

/-- A read of bytes just written gives them back. -/
theorem readBytes_writeBytes (mem : List Host.Cell) (a : Nat) (bs : List Byte) :
    readBytes (writeBytes mem a bs) a bs.length = bs := by
  rw [readBytes_eq_map]
  refine List.ext_getElem (by simp) fun k hk hk' => ?_
  rw [List.getElem_map, List.getElem_range]
  refine heldByte_of_readByte ?_
  rw [readByte_writeBytes_inside bs mem a k hk', List.getElem?_eq_getElem hk']

theorem writeByte_wf {mem : List Host.Cell} (h : Memory.wf mem) {a : Nat} (ha : a < 2 ^ 32) (v : Byte) :
    Memory.wf (writeByte mem a v) := by
  refine ⟨risingKeys_insertKey h.1 a v, fun c hc => ?_⟩
  rcases mem_insertKey hc with hc | hc
  · simpa [hc] using ha
  · exact h.2 c hc

theorem writeBytes_wf (bs : List Byte) :
    ∀ {mem : List Host.Cell}, Memory.wf mem → ∀ {a : Nat}, a + bs.length ≤ 2 ^ 32 → Memory.wf (writeBytes mem a bs) := by
  induction bs with
  | nil => intro mem h _ _; exact h
  | cons v bs ih =>
    intro mem h a ha
    have hlen : (v :: bs).length = bs.length + 1 := rfl
    exact ih (writeByte_wf h (by omega) v) (by omega)

theorem writeWord_wf {mem : List Host.Cell} (h : Memory.wf mem) {addr : Nat} (ha : addr + 4 ≤ 2 ^ 32) (v : Word) :
    Memory.wf (writeWord mem addr v) :=
  writeBytes_wf _ h (by simpa using ha)

/-- Equal reads make equal memories. -/
theorem Memory.eq_of_readByte_eq {m n : List Host.Cell} (hm : Memory.wf m) (hn : Memory.wf n)
    (h : ∀ a, readByte m a = readByte n a) : m = n :=
  eq_of_findKey_eq hm.1 hn.1 h

end Sys2Proof.Machine
end

