-- ==== Sys2Proof/Laws/Step.lean ====
section
/-! SUPPORT. Everything a step can do, said once: `step_cases`. -/

namespace Sys2Proof.Machine

/-- The MBSA is as it was; only the turns, the host program, the response and the free values' counters may have moved. -/
def SameMachine (s s0 : State) : Prop :=
  ∃ ev ho re fi wa, s0 = { s with events := ev, host := ho, response := re, freeIdx := fi, waited := wa }

theorem SameMachine.refl (s : State) : SameMachine s s := ⟨_, _, _, _, _, rfl⟩

theorem SameMachine.trans {a b c : State} (h : SameMachine a b) (h' : SameMachine b c) : SameMachine a c := by
  obtain ⟨_, _, _, _, _, rfl⟩ := h
  obtain ⟨_, _, _, _, _, rfl⟩ := h'
  exact ⟨_, _, _, _, _, rfl⟩

/-- What a register write can do to the state it finds (R82, R84). -/
theorem writeReg_cases {r : Reg} {v : Word} {s t : State} (h : writeReg r v s = .next t) :
    (r = .ctrl ∧ v.getLsbD 0 = true ∧ t = resetMachine s) ∨
    (r ≠ .cmd ∧ (r = .ctrl → v.getLsbD 0 = false) ∧ t = writePlain r v s) ∨
    (r = .cmd ∧ s.busy = true ∧ t = overrun s) ∨
    (r = .cmd ∧ s.pending = none ∧ ∃ e, decode v = .error e ∧ t = reject (illegalCode e) (opField v) s) ∨
    (r = .cmd ∧ s.pending = none ∧ ∃ i, decode v = .ok i ∧ exec i s = .next t) := by
  unfold writeReg at h
  by_cases hr : r = .cmd
  · rw [if_pos hr, writeCmd] at h
    by_cases hb : s.busy = true
    · rw [if_pos hb] at h
      exact .inr (.inr (.inl ⟨hr, hb, by simpa using h.symm⟩))
    · rw [if_neg hb] at h
      have hp : s.pending = none := (busy_eq_false_iff s).1 (by simpa using hb)
      cases hd : decode v with
      | error e => rw [hd] at h; exact .inr (.inr (.inr (.inl ⟨hr, hp, e, rfl, by simpa using h.symm⟩)))
      | ok i => rw [hd] at h; exact .inr (.inr (.inr (.inr ⟨hr, hp, i, rfl, h⟩)))
  · rw [if_neg hr] at h
    have ht : t = writePlain r v s := by simpa using h.symm
    by_cases hc : r = .ctrl ∧ v.getLsbD 0 = true
    · exact .inl ⟨hc.1, hc.2, by rw [ht, hc.1]; simp [writePlain, writeCtrl, hc.2]⟩
    · exact .inr (.inl ⟨hr, fun h1 => by simpa [h1] using hc, ht⟩)

/-- A register write always answers a next state. -/
theorem writeReg_answers (r : Reg) (v : Word) (s : State) : ∃ t, writeReg r v s = .next t := by
  unfold writeReg
  split
  · unfold writeCmd
    split
    · exact ⟨_, rfl⟩
    · split
      · exact ⟨_, rfl⟩
      · exact exec_answers _ _
  · exact ⟨_, rfl⟩

/-- The ways in which a step answers a next state. `s0` is the state with the turn taken off and the host's own bookkeeping
done; it is the machine of `s`. -/
inductive StepCase (s t : State) : Prop where
  /-- Nothing of the MBSA moves: idling, a bus error, a host statement that is no access. -/
  | same (h : SameMachine s t)
  /-- The engine's step on the pending command. -/
  | engine (p : Pending) (s0 : State) (hm : engineMoves s = true) (hp : s.pending = some p) (hs : SameMachine s s0)
      (ht : exec p.instr s0 = .next t)
  /-- A reset, from the reset input or through CTRL. -/
  | reset (s0 : State) (hr : resetsNow s) (hs : SameMachine s s0) (ht : t = resetMachine s0)
  /-- A register read. -/
  | read (r : Reg) (s0 : State) (hs : SameMachine s s0) (ht : SameMachine (readReg r s0).2 t)
  /-- A register write that is no soft reset. -/
  | write (r : Reg) (v : Word) (s0 : State) (hw : writesNow s = some (r, v)) (hs : SameMachine s s0)
      (ht : writeReg r v s0 = .next t) (hc : r = .ctrl → v.getLsbD 0 = false)
  /-- A host write of the external memory. -/
  | memory (addr : Word) (bytes : List Byte) (hm : memoryWrittenNow s) (hle : addr.toNat + bytes.length ≤ 2 ^ 32)
      (ht : SameMachine { s with mem := writeBytes s.mem addr.toNat bytes } t)

/-- A register write, whoever makes it. -/
theorem StepCase.of_write {s t s0 : State} {r : Reg} {v : Word} (hw : writesNow s = some (r, v)) (hs : SameMachine s s0)
    (ht : writeReg r v s0 = .next t) : StepCase s t := by
  by_cases hc : r = .ctrl ∧ v.getLsbD 0 = true
  · obtain ⟨rfl, hv⟩ := hc
    refine .reset s0 (.inr ⟨v, hw, hv⟩) hs ?_
    simpa [writeReg, writePlain, writeCtrl, hv] using ht.symm
  · exact .write r v s0 hw hs ht fun h1 => by simpa [h1] using hc

/-- The engine's turn. -/
theorem StepCase.of_engine {s t s0 : State} (hs : SameMachine s s0) (hm : engineMoves s = true)
    (ht : engineTurn s0 = .next t) : StepCase s t := by
  have hp : s0.pending = s.pending := by obtain ⟨_, _, _, _, _, rfl⟩ := hs; rfl
  have hb : s.busy = true := by
    unfold engineMoves at hm
    split at hm <;> simp_all
  obtain ⟨p, hsp⟩ := Option.isSome_iff_exists.1 hb
  rw [engineTurn, hp, hsp] at ht
  exact .engine p s0 hm hsp hs ht

/-- The host program's turn. -/
theorem StepCase.of_host {s t s0 : State} (hs : SameMachine s s0) (hh : s0.host = s.host) (hm : hostMoves s = true)
    (hev : ∀ w o v r, s.events ≠ .write w o v :: r) (ht : hostTurn s0 = .next t) : StepCase s t := by
  unfold hostTurn at ht
  cases hst : s0.host.prog[s0.host.pc]? with
  | none => rw [hst] at ht; exact .same ((by simpa using ht : s0 = t) ▸ hs)
  | some st =>
    rw [hst] at ht
    have hadv : SameMachine s (advanceHost s0) := hs.trans ⟨_, _, _, _, _, rfl⟩
    have hwn : ∀ r v, st.writes = some (r, v) → writesNow s = some (r, v) := by
      intro r v hv
      rw [hh] at hst
      unfold writesNow
      split
      · next w o x rest he => exact absurd he (hev w o x rest)
      · rw [if_pos hm, hst]; exact hv
    cases st with
    | cmd i =>
      simp only [runStmt] at ht
      by_cases hi : i.wf = true
      · rw [if_pos hi] at ht
        exact .of_write (hwn _ _ (by simp [Stmt.writes, hi])) (hadv.trans ⟨_, _, _, _, _, rfl⟩) ht
      · rw [if_neg hi] at ht; simp at ht
    | wr r v => exact .of_write (hwn _ _ rfl) (hadv.trans ⟨_, _, _, _, _, rfl⟩) ht
    | rd r n =>
      simp only [runStmt, Host.Outcome.next.injEq] at ht
      exact .read r (advanceHost s0) hadv (ht ▸ ⟨_, _, _, _, _, rfl⟩)
    | label l =>
      simp only [runStmt, Host.Outcome.next.injEq] at ht
      exact .same (ht ▸ hadv)
    | bnz n mask l =>
      simp only [runStmt] at ht
      split at ht
      · split at ht
        · simp only [Host.Outcome.next.injEq] at ht
          exact .same (ht ▸ hadv.trans ⟨_, _, _, _, _, rfl⟩)
        · simp at ht
      · simp only [Host.Outcome.next.injEq] at ht
        exact .same (ht ▸ hadv)

/-- Everything a step can do when it answers a next state. -/
theorem step_cases {s t : State} (h : step s = .next t) : StepCase s t := by
  unfold step turn at h
  cases hev : s.events with
  | nil =>
    rw [hev] at h
    unfold runFree at h
    simp only at h
    by_cases hb : s.busy = true
    · rw [if_pos hb] at h
      by_cases hd : engineDue s = true
      · rw [if_pos hd] at h
        exact .of_engine (s0 := nextDelay s) ⟨_, _, _, _, _, rfl⟩ (by simp [engineMoves, hev, hb, hd]) h
      · rw [if_neg hd] at h
        exact .of_host (s0 := countWait s) ⟨_, _, _, _, _, rfl⟩ rfl (by simp [hostMoves, hev, hd]) (by simp [hev]) h
    · rw [if_neg hb] at h
      exact .of_host (.refl s) rfl (by simp [hostMoves, hev, hb]) (by simp [hev]) h
  | cons e rest =>
    rw [hev] at h
    have hdrop : SameMachine s (dropEvent s) := ⟨_, _, _, _, _, rfl⟩
    cases e with
    | host => exact .of_host hdrop rfl (by simp [hostMoves, hev]) (by simp [hev]) h
    | engine =>
      by_cases hb : s.busy = true
      · exact .of_engine hdrop (by simp [engineMoves, hev, hb]) h
      · have hp : (dropEvent s).pending = none := by
          simpa using (busy_eq_false_iff s).1 (by simpa using hb)
        simp only [runEvent, engineTurn, hp, Host.Outcome.next.injEq] at h
        exact .same (h ▸ hdrop)
    | reset =>
      simp only [runEvent, Host.Outcome.next.injEq] at h
      exact .reset _ (.inl (by simp [hev])) hdrop h.symm
    | read width offset =>
      simp only [runEvent, portRead, Host.Outcome.next.injEq] at h
      split at h
      · exact .same (h ▸ hdrop.trans ⟨_, _, _, _, _, rfl⟩)
      · subst h; exact .read _ _ hdrop ⟨_, _, _, _, _, rfl⟩
    | write width offset v =>
      simp only [runEvent, portWrite] at h
      split at h
      · simp only [Host.Outcome.next.injEq] at h
        exact .same (h ▸ hdrop.trans ⟨_, _, _, _, _, rfl⟩)
      · next r hr => exact .of_write (by simp [writesNow, hev, hr]) (hdrop.trans ⟨_, _, _, _, _, rfl⟩) h
    | memRead addr n =>
      simp only [runEvent, hostMemRead] at h
      split at h
      · simp at h
      · simp only [Host.Outcome.next.injEq] at h
        exact .same (h ▸ hdrop.trans ⟨_, _, _, _, _, rfl⟩)
    | memWrite addr bytes =>
      simp only [runEvent, hostMemWrite] at h
      split at h
      · simp at h
      · next hle =>
        simp only [Host.Outcome.next.injEq] at h
        exact .memory addr bytes ⟨addr, bytes, by simp [hev]⟩ (by omega) (h ▸ ⟨_, _, _, _, _, rfl⟩)

end Sys2Proof.Machine
end

