-- ==== Sys2Proof/Laws/Frames.lean ====
section
/-! SUPPORT. What each kind of action leaves alone, said once as an equation between states. -/

namespace Sys2Proof.Machine

/-- Using up a reply: the fixed ones lose their first, and with none fixed the counter moves on (log 6). -/
theorem dropReply_eq (s : State) :
    dropReply s = { s with
      replies := s.replies.tail, freeIdx := if s.replies = [] then s.freeIdx + 1 else s.freeIdx } := by
  unfold dropReply
  cases s.replies <;> simp

/-- Using up a reply moves the replies or the free values' counter. -/
theorem dropReply_frame (s : State) :
    dropReply s = { s with replies := (dropReply s).replies, freeIdx := (dropReply s).freeIdx } := by
  unfold dropReply
  split <;> rfl

/-- A pixel's write moves the external memory, and its reply is used up. -/
theorem putPixel_frame (p : Pending) (s : State) :
    putPixel p s = { s with
      mem := (putPixel p s).mem, replies := (putPixel p s).replies, freeIdx := (putPixel p s).freeIdx } := by
  unfold putPixel
  rw [dropReply_frame]

theorem putPixel_outside (p : Pending) (s : State) (a : Nat) (h : a < nextPixelAddr p s ∨ nextPixelAddr p s + 4 ≤ a) :
    readByte (putPixel p s).mem a = readByte s.mem a := by
  unfold putPixel
  simp only
  split
  · exact readByte_writeWord_outside _ _ _ _ h
  · rfl

theorem mapPixel_mem (p : Pending) (s : State) : (mapPixel p s).mem = (putPixel p s).mem := by
  rcases mapPixel_cases p s with ⟨_, _, h⟩ | ⟨_, _, h⟩ | ⟨_, h⟩ <;> rw [h] <;> rfl

/-- A step of MAP moves the external memory, the command, its flags, and the reply. -/
theorem mapPixel_frame (p : Pending) (s : State) :
    mapPixel p s = { s with
      mem := (mapPixel p s).mem, pending := (mapPixel p s).pending, errCode := (mapPixel p s).errCode
      err := (mapPixel p s).err, done := (mapPixel p s).done, replies := (mapPixel p s).replies
      freeIdx := (mapPixel p s).freeIdx } := by
  rcases mapPixel_cases p s with ⟨_, _, h⟩ | ⟨_, _, h⟩ | ⟨_, h⟩ <;> rw [h, putPixel_frame] <;> rfl

/-- An issue moves the command and what records its outcome. -/
theorem issue_frame (i : Instr) (c : ErrCode) (s : State) :
    issue i c s = { s with
      pending := (issue i c s).pending, errCode := (issue i c s).errCode, lastOp := (issue i c s).lastOp
      err := (issue i c s).err, done := (issue i c s).done } := by
  rcases issue_cases i c s with ⟨_, h⟩ | ⟨_, h⟩ <;> rw [h] <;> rfl

/-- A register write that is no soft reset moves the host's own registers and the palette (R82). -/
theorem writePlain_frame {r : Reg} {v : Word} (s : State) (hc : r = .ctrl → v.getLsbD 0 = false) :
    writePlain r v s = { s with
      irqEn := (writePlain r v s).irqEn, err := (writePlain r v s).err, done := (writePlain r v s).done
      cmdArg := (writePlain r v s).cmdArg, outBase := (writePlain r v s).outBase
      outStride := (writePlain r v s).outStride, canvasX := (writePlain r v s).canvasX
      canvasY := (writePlain r v s).canvasY, lutI := (writePlain r v s).lutI, lutJ := (writePlain r v s).lutJ
      pal := (writePlain r v s).pal, palMask := (writePlain r v s).palMask, palCount := (writePlain r v s).palCount
      palComplete := (writePlain r v s).palComplete } := by
  cases r <;> first
    | rfl
    | (simp only [writePlain, writeInt, writePalette]; split <;> rfl)
    | (simp only [writePlain, writeCtrl, hc]; rfl)

/-- A reset moves nothing that is not the MBSA's, and the external memory only by the word a stopped MAP has outstanding (R140). -/
theorem resetMachine_frame (s : State) :
    (resetMachine s).params = s.params ∧ (resetMachine s).host = s.host ∧ (resetMachine s).events = s.events ∧
    ((∀ p, s.pending = some p → p.instr ≠ .map) → (resetMachine s).mem = s.mem) := by
  refine ⟨by simp, by simp, by simp, fun h => ?_⟩
  rw [resetMachine_mem]
  rcases abandonPending_cases s with ⟨p, hp, hm, _⟩ | ⟨_, he⟩
  · exact absurd hm (h p hp)
  · rw [he]

end Sys2Proof.Machine
end

