-- ==== Sys2Proof/Laws/Registers.lean ====
section
/-! SUPPORT. The bits of the composed words (STATUS, CTRL, the pointers), and the written mask with its count. -/

namespace Sys2Proof.Machine

/-- One bit of a concatenation, stated for a word whose width is the sum. -/
theorem getLsbD_concat {m n w : Nat} (h : m + n = w) (a : BitVec m) (b : BitVec n) (i : Nat) :
    ((a ++ b).cast h).getLsbD i = if i < n then b.getLsbD i else a.getLsbD (i - n) := by
  subst h
  simp only [BitVec.cast_eq, BitVec.getLsbD_append]

theorem getLsbD_ptrWord (lo hi : BitVec 12) (i : Nat) :
    (ptrWord lo hi).getLsbD i = if i < 12 then lo.getLsbD i else if i < 24 then hi.getLsbD (i - 12) else false := by
  have h1 := getLsbD_concat (w := 32) rfl ((0 : BitVec 8) ++ hi) lo i
  have h2 := getLsbD_concat (w := 20) rfl (0 : BitVec 8) hi (i - 12)
  refine h1.trans ?_
  by_cases hi1 : i < 12
  · simp [hi1]
  · rw [if_neg hi1, if_neg hi1]
    refine h2.trans ?_
    by_cases hi2 : i < 24
    · rw [if_pos (by omega), if_pos hi2]
    · rw [if_neg (by omega), if_neg hi2]; simp

theorem getLsbD_ctrlWord (b : Bool) (i : Nat) : (ctrlWord b).getLsbD i = (decide (i = 1) && b) := by
  have h1 := getLsbD_concat (w := 32) rfl ((0 : BitVec 30) ++ BitVec.ofBool b) (0 : BitVec 1) i
  have h2 := getLsbD_concat (w := 31) rfl (0 : BitVec 30) (BitVec.ofBool b) (i - 1)
  refine h1.trans ?_
  by_cases hi : i = 0
  · subst hi; rfl
  · rw [if_neg (by omega)]
    refine h2.trans ?_
    by_cases hi1 : i = 1
    · subst hi1; cases b <;> rfl
    · rw [if_neg (by omega)]; simp [hi1]

/-- R25, bit by bit. -/
theorem getLsbD_statusWord (s : State) (i : Nat) :
    (statusWord s).getLsbD i =
      if i = 0 then s.busy else if i = 1 then s.palComplete else if i = 2 then s.lutValid
      else if i = 3 then s.canvasInit else if i < 8 then false
      else if i < 16 then s.errCode.bits.getLsbD (i - 8) else if i < 20 then s.lastOp.getLsbD (i - 16) else false := by
  have h0 := getLsbD_concat (w := 32) rfl ((0 : BitVec 12) ++ s.lastOp ++ s.errCode.bits ++ (0 : BitVec 4) ++
    BitVec.ofBool s.canvasInit ++ BitVec.ofBool s.lutValid ++ BitVec.ofBool s.palComplete) (BitVec.ofBool s.busy) i
  have h1 := getLsbD_concat (w := 31) rfl ((0 : BitVec 12) ++ s.lastOp ++ s.errCode.bits ++ (0 : BitVec 4) ++
    BitVec.ofBool s.canvasInit ++ BitVec.ofBool s.lutValid) (BitVec.ofBool s.palComplete) (i - 1)
  have h2 := getLsbD_concat (w := 30) rfl ((0 : BitVec 12) ++ s.lastOp ++ s.errCode.bits ++ (0 : BitVec 4) ++
    BitVec.ofBool s.canvasInit) (BitVec.ofBool s.lutValid) (i - 1 - 1)
  have h3 := getLsbD_concat (w := 29) rfl ((0 : BitVec 12) ++ s.lastOp ++ s.errCode.bits ++ (0 : BitVec 4))
    (BitVec.ofBool s.canvasInit) (i - 1 - 1 - 1)
  have h4 := getLsbD_concat (w := 28) rfl ((0 : BitVec 12) ++ s.lastOp ++ s.errCode.bits) (0 : BitVec 4)
    (i - 1 - 1 - 1 - 1)
  have h5 := getLsbD_concat (w := 24) rfl ((0 : BitVec 12) ++ s.lastOp) s.errCode.bits (i - 1 - 1 - 1 - 1 - 4)
  have h6 := getLsbD_concat (w := 16) rfl (0 : BitVec 12) s.lastOp (i - 1 - 1 - 1 - 1 - 4 - 8)
  refine h0.trans ?_
  by_cases c0 : i = 0
  · subst c0; simp
  rw [if_neg (by omega), if_neg c0]
  refine h1.trans ?_
  by_cases c1 : i = 1
  · subst c1; simp
  rw [if_neg (by omega), if_neg c1]
  refine h2.trans ?_
  by_cases c2 : i = 2
  · subst c2; simp
  rw [if_neg (by omega), if_neg c2]
  refine h3.trans ?_
  by_cases c3 : i = 3
  · subst c3; simp
  rw [if_neg (by omega), if_neg c3]
  refine h4.trans ?_
  by_cases c4 : i < 8
  · rw [if_pos (by omega), if_pos c4]; simp
  rw [if_neg (by omega), if_neg c4]
  refine h5.trans ?_
  by_cases c5 : i < 16
  · rw [if_pos (by omega), if_pos c5]; congr 1
  rw [if_neg (by omega), if_neg c5]
  refine h6.trans ?_
  by_cases c6 : i < 20
  · rw [if_pos (by omega), if_pos c6]; congr 1
  rw [if_neg (by omega), if_neg c6]; simp

/-! ### The written mask (R42) -/

theorem getLsbD_markWritten (mask : BitVec 256) (k : BitVec 8) (n : Nat) :
    (markWritten mask k).getLsbD n = (mask.getLsbD n || decide (n = k.toNat)) := by
  have hk : k.toNat < 256 := k.isLt
  simp only [markWritten, BitVec.getLsbD_or, BitVec.getLsbD_twoPow]
  by_cases h : n = k.toNat
  · subst h; simp [hk]
  · have : k.toNat ≠ n := fun h' => h h'.symm
    simp [h, this]

theorem popcount_le (mask : BitVec 256) : popcount mask ≤ 256 := by
  have h := List.countP_le_length (p := fun k => mask.getLsbD k) (l := List.range 256)
  simpa [popcount] using h

/-- The count is 256 exactly when every entry is marked (R113). -/
theorem popcount_eq_256 (mask : BitVec 256) : popcount mask = 256 ↔ ∀ k, k < 256 → mask.getLsbD k = true := by
  have h := List.countP_eq_length (p := fun k => mask.getLsbD k) (l := List.range 256)
  simpa [popcount] using h

theorem popcount_zero : popcount 0 = 0 := by simp [popcount]

/-- Marking an entry counts it once (R112). -/
theorem popcount_markWritten (mask : BitVec 256) (k : BitVec 8) :
    popcount (markWritten mask k) = popcount mask + if mask.getLsbD k.toNat then 0 else 1 := by
  have hk : k.toNat < 256 := k.isLt
  have split : ∀ n, (List.range n).countP (fun j => (markWritten mask k).getLsbD j) =
      (List.range n).countP (fun j => mask.getLsbD j) + if k.toNat < n ∧ mask.getLsbD k.toNat = false then 1 else 0 := by
    intro n
    induction n with
    | zero => simp
    | succ n ih =>
      rw [List.range_succ, List.countP_append, List.countP_append, ih]
      simp only [List.countP_singleton, getLsbD_markWritten]
      by_cases hn : n = k.toNat
      · subst hn
        cases hm : mask.getLsbD k.toNat <;> simp
      · have hlt : k.toNat < n + 1 ↔ k.toNat < n := by omega
        cases hm : mask.getLsbD n
        · simp [hn, hlt]
        · simp [hn, hlt]
          omega
  unfold popcount
  rw [split 256]
  cases mask.getLsbD k.toNat <;> simp [hk]

theorem toNat_ofNat_popcount (mask : BitVec 256) : (BitVec.ofNat 9 (popcount mask)).toNat = popcount mask := by
  have := popcount_le mask
  simp only [BitVec.toNat_ofNat]
  omega

end Sys2Proof.Machine
end

