-- ==== Sys2Proof/Laws/Invariant.lean ====
section
/-! SUPPORT. The checks on operands as plain inequalities, and what the invariant needs of a state that shares most fields with
one that has it. -/

namespace Sys2Proof.Machine

theorem diamOk_iff (p : Params) (d : Nat) : diamOk p d = true ↔ 1 ≤ d ∧ d ≤ p.dmax ∧ d ≤ p.w ∧ d ≤ p.h := by
  simp [diamOk]
  omega

theorem cellIn_iff (p : Params) (x y : Nat) : cellIn p x y = true ↔ x < p.w ∧ y < p.h := by simp [cellIn]

theorem splatFits_iff (p : Params) (d x y : Nat) : splatFits p d x y = true ↔ x + d ≤ p.w ∧ y + d ≤ p.h := by
  simp [splatFits]

theorem baseAligned_iff (b : Word) : baseAligned b = true ↔ b.toNat % 4 = 0 := by
  have h : b.extractLsb' 0 2 = 0 ↔ b.toNat % 4 = 0 := by
    rw [← BitVec.toNat_inj]
    simp [BitVec.extractLsb'_toNat]
  simp only [baseAligned, decide_eq_true_eq, h]

/-- The four bytes that a pending MAP writes next lie within the external memory (R116). -/
theorem nextPixelAddr_fits {s : State} {p : Pending} (hm : p.instr = .map) (hr : pendingReady p s = true) :
    nextPixelAddr p s + 4 ≤ 2 ^ 32 := by
  simp only [pendingReady, hm, Bool.and_eq_true, decide_eq_true_eq, rangeOk] at hr
  obtain ⟨_, ⟨⟨⟨_, _⟩, _⟩, hrange⟩, hidx⟩ := hr
  have hw : 0 < s.params.w := by
    rcases Nat.eq_zero_or_pos s.params.w with h | h
    · simp [h] at hidx
    · exact h
  have hx : p.index % s.params.w < s.params.w := Nat.mod_lt _ hw
  have hy : p.index / s.params.w < s.params.h := Nat.div_lt_of_lt_mul hidx
  have hrow : p.index / s.params.w * p.stride.toNat ≤ (s.params.h - 1) * p.stride.toNat :=
    Nat.mul_le_mul_right _ (by omega)
  unfold nextPixelAddr pixelAddr
  omega

/-- The invariant speaks of nothing that a `SameMachine` may move. -/
theorem Inv.of_sameMachine {s t : State} (hs : Inv s) (h : SameMachine s t) : Inv t := by
  obtain ⟨_, _, _, _, _, rfl⟩ := h
  exact ⟨hs.1, hs.2, hs.3, hs.4, hs.5, hs.6, hs.7, hs.8, hs.9, hs.10, hs.11⟩

/-- The invariant carries over to a state with the same memories and flags once its external memory and its pending command
are in order. -/
theorem Inv.of_same_memories {s t : State} (hs : Inv s) (hparams : t.params = s.params) (hcanvas : t.canvas = s.canvas)
    (hlut : t.lut = s.lut) (hvalid : t.lutValid = s.lutValid) (hdiam : t.lutDiam = s.lutDiam) (hpal : t.pal = s.pal)
    (hmask : t.palMask = s.palMask) (hcount : t.palCount = s.palCount) (hcomplete : t.palComplete = s.palComplete)
    (hmem : Memory.wf t.mem) (hpending : ∀ p, t.pending = some p → pendingReady p t = true) : Inv t := by
  refine ⟨?_, ?_, ?_, ?_, ?_, ?_, ?_, ?_, ?_, hmem, hpending⟩ <;>
    simp only [hparams, hcanvas, hlut, hvalid, hdiam, hpal, hmask, hcount, hcomplete]
  · exact hs.1
  · exact hs.2
  · exact hs.3
  · exact hs.4
  · exact hs.5
  · exact hs.6
  · exact hs.7
  · exact hs.8
  · exact hs.9

end Sys2Proof.Machine
end

