-- ==== Sys2Proof/Laws/PerInstr.lean ====
section
/-! SUPPORT. Per command: bits [31:28] of its word are its opcode (R68, R72), which is at most 5, and distinct opcodes keep the
commands apart. -/

namespace Sys2Proof.Laws.OpcodeField

/-- The word of the command carries the command's opcode in bits [31:28], and it is an opcode of R72. -/
def Statement (i : Instr) : Prop := opField (encode i) = i.opcode ∧ i.opcode.toNat ≤ 5

theorem nop : Statement .nop := ⟨opField_encode _, by decide⟩

theorem clear : Statement .clear := ⟨opField_encode _, by decide⟩

theorem buildLut (diam : Nat) : Statement (.buildLut diam) := ⟨opField_encode _, by simp [Instr.opcode]⟩

theorem splat (x y : Nat) : Statement (.splat x y) := ⟨opField_encode _, by simp [Instr.opcode]⟩

theorem addsat (x y : Nat) : Statement (.addsat x y) := ⟨opField_encode _, by simp [Instr.opcode]⟩

theorem map : Statement .map := ⟨opField_encode _, by decide⟩

end Sys2Proof.Laws.OpcodeField
end

