-- ==== Sys2Proof/Laws/Port.lean ====
section
/-! SUPPORT. A step that is an access of the register port, by the register it reaches; and the register map. -/

namespace Sys2Proof.Machine

/-- Each register is reached at its offset (R20). -/
theorem regAt_offset (r : Reg) : regAt 32 r.offset = some r := by
  cases r with
  | pal k => revert k; decide
  | _ => decide

theorem step_write {w : Nat} {o : BitVec 12} {r : Reg} (h : regAt w o = some r) (v : Word) (s : State) :
    step (before (.write w o v) s) = writeReg r v (respond .done s) := by
  rw [step_before]; simp only [runEvent, portWrite, h]

theorem step_read {w : Nat} {o : BitVec 12} {r : Reg} (h : regAt w o = some r) (s : State) :
    step (before (.read w o) s) = .next (respond (.data (readReg r s).1) (readReg r s).2) := by
  rw [step_before]; simp only [runEvent, portRead, h]

theorem writeReg_plain {r : Reg} (h : r ≠ .cmd) (v : Word) (s : State) : writeReg r v s = .next (writePlain r v s) := by
  simp [writeReg, h]

theorem writeCmd_busy {s : State} {p : Pending} (h : s.pending = some p) (w : Word) :
    writeReg .cmd w s = .next (overrun s) := by
  simp [writeReg, writeCmd, busy_of_pending h]

theorem writeCmd_illegal {s : State} (h : s.pending = none) {w : Word} {e : Illegal} (hd : decode w = .error e) :
    writeReg .cmd w s = .next (reject (illegalCode e) (opField w) s) := by
  simp [writeReg, writeCmd, (busy_eq_false_iff s).2 h, hd]

theorem writeCmd_command {s : State} (h : s.pending = none) {w : Word} {i : Instr} (hd : decode w = .ok i) :
    writeReg .cmd w s = exec i s := by
  simp [writeReg, writeCmd, (busy_eq_false_iff s).2 h, hd]

theorem step_engine {s : State} {p : Pending} (h : s.pending = some p) :
    step (before .engine s) = .next (effectOf p s) := by
  rw [step_before]; simp only [runEvent, engineTurn, h, exec_running h]

end Sys2Proof.Machine
end

