-- ==== Sys2Proof/Laws/Runs.lean ====
section
/-! SUPPORT. Runs of several steps. -/

namespace Sys2Proof.Machine

theorem runSteps_succ (n : Nat) {s t : State} (h : step s = .next t) : runSteps (n + 1) s = runSteps n t := by
  have h' : core.step s = .next t := h
  simp only [runSteps, Host.Core.run, h']
  rfl

theorem runSteps_one (s : State) : runSteps 1 s = step s := by
  cases h : step s with
  | next t => rw [runSteps_succ 0 h]; rfl
  | fault f =>
    have h' : core.step s = .fault f := h
    simp only [runSteps, Host.Core.run, h']
    rfl
  | refused r =>
    have h' : core.step s = .refused r := h
    simp only [runSteps, Host.Core.run, h']
    rfl

end Sys2Proof.Machine
end

