-- ==== Sys2Proof/Tests/Slice0.lean ====
section
/-! SUPPORT. The model's own tests. Expected values are those of spec/95_test_vectors.md (the vector's number stands at the test) or of
a rule's own example. The second half gives, for every obligation with hypotheses, a state and operands that meet them all. -/

namespace Sys2Proof.Tests

open Sys2Proof.Machine

/-! ### Decoding: each word written out from the formats of R68 and the opcode map of R72 -/

/-- Format N: OP 0000, 28 zeros. -/
theorem test_decode_nop : decode 0b0000_0000000000000000000000000000 = .ok .nop := by decide
theorem test_decode_clear : decode 0b0001_0000000000000000000000000000 = .ok .clear := by decide
theorem test_decode_map : decode 0b0101_0000000000000000000000000000 = .ok .map := by decide

/-- Format D: OP 0010, 16 zeros, DIAM. Vector 2.2.8 is DIAM = 4095. -/
theorem test_decode_buildLut : decode 0b0010_0000000000000000_000000000100 = .ok (.buildLut 4) := by decide
theorem test_decode_buildLut_max : decode 0b0010_0000000000000000_111111111111 = .ok (.buildLut 4095) := by decide

/-- Format P: OP, 4 zeros, Y, X. Vectors 2.2.10 and 2.2.12. -/
theorem test_decode_splat : decode 0b0011_0000_000000000001_000000000010 = .ok (.splat 2 1) := by decide
theorem test_decode_splat_max : decode 0x30FFFFFF = .ok (.splat 4095 4095) := by decide
theorem test_decode_addsat : decode 0b0100_0000_000000000011_000000000111 = .ok (.addsat 7 3) := by decide

/-- Vectors 2.2.2, 2.2.7, 2.2.9, 2.2.11, 2.2.14. -/
theorem test_decode_reserved_bits :
    decode 0x00000001 = .error .reservedBits ∧ decode 0x10000001 = .error .reservedBits ∧
    decode 0x20001004 = .error .reservedBits ∧ decode 0x31000000 = .error .reservedBits ∧
    decode 0x48000000 = .error .reservedBits ∧ decode 0x58000000 = .error .reservedBits := by decide

/-- Vectors 2.2.3, 2.2.4, 2.2.5: the opcode is looked at before the reserved bits. -/
theorem test_decode_opcode :
    decode 0x60000000 = .error .opcode ∧ decode 0x6FFFFFFF = .error .opcode ∧ decode 0xF0000000 = .error .opcode := by
  decide

theorem test_decodeTableWord :
    decodeTableWord 32 0x20000004 = some (.buildLut 4) ∧ decodeTableWord 32 0x60000000 = none := by decide

/-! ### WellFormed refuses an operand that no field holds -/

theorem test_wf_buildLut : (Instr.buildLut 4095).wf = true ∧ (Instr.buildLut 4096).wf = false := by decide
theorem test_wf_splat_x : (Instr.splat 4095 4095).wf = true ∧ (Instr.splat 4096 0).wf = false := by decide
theorem test_wf_splat_y : (Instr.splat 0 4096).wf = false := by decide
theorem test_wf_addsat_x : (Instr.addsat 4095 4095).wf = true ∧ (Instr.addsat 4096 0).wf = false := by decide
theorem test_wf_addsat_y : (Instr.addsat 0 4096).wf = false := by decide

/-! ### Small machines -/

/-- After reset with W = 8, H = 4, DMAX = 4 (section 2 of the vectors). -/
def small : State := { State.reset with params := ⟨8, 4, 4⟩ }

/-- `grey`: pal[k] = 0xFF000000 OR (k << 16) OR (k << 8) OR k. -/
def grey (k : Nat) : Word := BitVec.ofNat 32 (0xFF000000 + k * 0x010101)

/-- "Booted": `LOADPAL grey`, `BUILD_LUT 4`, `CLEAR`, each completed. -/
def booted : State :=
  { small with
    palComplete := true, palCount := 256, palMask := BitVec.allOnes 256
    pal := (List.range 256).map fun k => (k, grey k)
    lutValid := true, lutDiam := 4, lut := builtLut 4, canvasInit := true, lastOp := 1, done := true }

/-- The booted machine with this command accepted: VALUE 100, BASE 0x1000, STRIDE 8, and every write answered `ok`. -/
def running (i : Instr) : State :=
  { booted with
    pending := some ⟨i, 100, 0x1000, 8, 0⟩, lastOp := i.opcode, done := false, replies := List.replicate 32 .ok }

/-- The machine after reset with BUILD_LUT 4 accepted. -/
def building : State := { small with pending := some ⟨.buildLut 4, 0, 0, 0, 0⟩, lastOp := 2 }

/-- One thing about the next state, if there is one. -/
def after {α : Type} (f : State → α) : Answer → Option α
  | .next t => some (f t)
  | .fault _ => none
  | .refused _ => none

/-- What a register reads in the next state. -/
def reads (r : Reg) (a : Answer) : Option Word := after (fun t => (readReg r t).1) a

/-! ### Instructions, by `CMD` write and engine step -/

/-- Vectors 2.7.1 and 2.7.2: BUSY after the write, DONE after the engine's step. -/
theorem test_nop_accepted : reads .status (step (State.reset.withFetchWord 32 0x00000000)) = some 0x00000001 := by decide
theorem test_nop_completes :
    reads .int (runSteps 2 (State.reset.withFetchWord 32 0x00000000)) = some 0x00000001 := by decide

/-- Vector 2.2.6: NO_PALETTE. -/
theorem test_clear_rejected : reads .status (step (small.withFetchWord 32 0x10000000)) = some 0x00010300 := by decide
/-- R105: every cell 0, CANVAS_INIT 1. -/
theorem test_clear : after (fun t => (canvasCell t 5 3, t.canvasInit))
    (step (before .engine { running .clear with canvas := [(29, 7)], canvasInit := false })) = some (0, true) := by decide

/-- Vector 2.3.3. -/
theorem test_buildLut : reads .status (runSteps 2 (small.withFetchWord 32 0x20000004)) = some 0x00020004 := by decide
/-- Vector 2.3.5: LUT_LOCKED comes before the diameter. -/
theorem test_buildLut_locked : reads .status (step (booted.withFetchWord 32 0x20000000)) = some 0x0002060E := by decide

/-- Vector 2.5.1: cell (3, 2) is LUT cell (3, 2) of D = 4. -/
theorem test_splat : after (fun t => (canvasCell t 3 2).toNat) (runSteps 2 (booted.withFetchWord 32 0x30000000)) =
    some 222 := by decide +kernel
/-- Vector 2.5.3: X + D = 9 > W. -/
theorem test_splat_bounds : reads .status (step (booted.withFetchWord 32 0x30000005)) = some 0x0003080E := by decide

/-- Vector 2.4.2 rows 1 and 2: 200 + 100 gives 255 and CMD_ARG written after the CMD write does not matter. -/
theorem test_addsat :
    after (fun t => (canvasCell t 7 3).toNat)
      (runSteps 3 (before (.write 32 0x024 0x40003007)
        (before (.write 32 0x028 5) { booted with cmdArg := 100, canvas := [(31, 200)] }))) = some 255 := by decide
/-- Vector 2.4.2 row 4: BOUNDS. -/
theorem test_addsat_bounds : reads .status (step (booted.withFetchWord 32 0x40000008)) = some 0x0004080E := by decide

/-- R121's example: pal[255] goes to BASE + 4, its lowest byte at the lowest address. -/
theorem test_map_pixel :
    after (fun t => (readByte t.mem 0x1004, readByte t.mem 0x1007))
      (step (before .engine { running .map with
        params := ⟨2, 1, 1⟩, canvas := [(1, 255)], pal := [(0, 0xFF000000), (255, 0xFF112233)]
        pending := some ⟨.map, 0, 0x1000, 2, 1⟩ })) = some (some 0x33, some 0xFF) := by decide
/-- R116, vector 2.6 MAP check 1: BAD_STRIDE. -/
theorem test_map_bad_stride :
    reads .status (step ({ booted with params := ⟨3, 2, 2⟩, outBase := 0x2002, outStride := 2 }.withFetchWord 32 0x50000000)) =
      some 0x0005090E := by decide

/-! ### Tables and registers -/

/-- Section 2.3: row 0 of D = 4, and row 4 of D = 8. -/
theorem test_falloff_rows :
    (List.range 4).map (fun i => (lutValue 4 i 0).toNat) = [27, 44, 55, 44] ∧
    (List.range 8).map (fun i => (lutValue 8 i 4).toNat) = [27, 49, 111, 255, 255, 255, 111, 49] := by decide
/-- Section 2.3, single values of D = 256. -/
theorem test_falloff_values :
    [(128, 128), (135, 135), (138, 128), (245, 128), (0, 0)].map (fun q => (lutValue 256 q.1 q.2).toNat) =
      [255, 145, 142, 1, 0] := by decide
/-- Section 2.4.1. -/
theorem test_sat8 : [sat8 (200 + 54), sat8 (200 + 55), sat8 (200 + 100)] = [254, 255, 255] := by decide

/-- Vectors 2.1.1 to 2.1.6. -/
theorem test_port_map :
    regAt 8 0x018 = none ∧ regAt 32 0x002 = none ∧ regAt 32 0x04C = none ∧ regAt 32 0x3FC = none ∧
    regAt 32 0x800 = none ∧ regAt 32 0x7FC = some (.pal 255) := by decide
/-- Vectors 2.1.12, 2.1.13, 2.1.14. -/
theorem test_read_back :
    reads .cmdArg (step (before (.write 32 0x028 0x12345678) small)) = some 0x00000078 ∧
    reads .outStride (step (before (.write 32 0x030 0x00030005) small)) = some 0x00000005 ∧
    reads .canvasPtr (step (before (.write 32 0x038 0xFF003002) small)) = some 0x00003002 := by decide
/-- Vectors 2.3.9 and 2.3.11. -/
theorem test_lut_port :
    after (fun t => (t.response, t.err)) (step (before (.read 32 0x044) { booted with lutI := 2, lutJ := 2 })) =
      some (some (.data 255), 0) ∧
    after (fun t => (t.response, t.err)) (step (before (.read 32 0x044) { booted with lutI := 4 })) =
      some (some (.data 0), 0x10) := by decide +kernel
/-- Vector 2.4.3 row 4: the range comes before NOT_INIT. -/
theorem test_canvas_port :
    after (fun t => (t.response, t.err)) (step (before (.read 32 0x03C) { small with canvasX := 8 })) =
      some (some (.data 0), 0x10) := by decide
/-- Vector 2.8: the sequence's last two steps. -/
theorem test_irq :
    after State.irq (step (before (.write 32 0x020 1) { small with irqEn := true, done := true })) = some false ∧
    after (fun t => (t.irq, t.done)) (step (before (.write 32 0x014 0) { small with irqEn := true, done := true })) =
      some (false, true) := by decide
/-- R62, I5: before the first MAP a host read of a word that nothing has written is answered, each byte by its free value. -/
theorem test_read_unwritten :
    after State.response (step (before (.memRead 0x1000 2) State.reset)) =
      some (some (.bytes [Config.initialByte 0x1000, Config.initialByte 0x1001])) := rfl
/-- R79: RDCV and RDLUT write (y << 12) OR x with no range, so an x of 4096 reaches bit 0 of y. Vector 2.1.14's pointer, then
RDCV 4096, 0. -/
theorem test_pointer_operand :
    pseudoReadCanvas 2 3 0 = [.wr .canvasPtr 0x00003002, .rd .canvasData 0] ∧
    pseudoReadCanvas 4096 0 0 = [.wr .canvasPtr 0x00001000, .rd .canvasData 0] ∧
    pseudoReadLut 4096 1 0 = [.wr .lutPtr 0x00001000, .rd .lutData 0] := by decide
/-- R79: WAIT leaves its loop when BUSY reads 0. -/
theorem test_wait :
    after (fun t => t.host.pc) (runSteps 3 { small with host := ⟨pseudoWait 0 1, 0, []⟩ }) = some 3 := by decide

/-! ### The small machines meet the invariant -/

theorem small_inv : Inv small where
  params := by decide
  canvas := by decide
  lut := rfl
  lutValid := by decide
  lutInvalid := fun _ => rfl
  palette := by decide
  palMask := by intro k _; simp [small, State.reset, findKey]
  palCount := popcount_zero.symm
  palComplete := by
    show false = true ↔ popcount 0 = 256
    rw [popcount_zero]; decide
  mem := by decide
  pending := by intro p h; simp [small, State.reset] at h

theorem popcount_allOnes : popcount (BitVec.allOnes 256) = 256 := by
  rw [popcount_eq_256]
  intro k hk
  rw [BitVec.getLsbD_allOnes]
  exact decide_eq_true hk

theorem booted_inv : Inv booted where
  params := by decide
  canvas := by decide
  lut := rfl
  lutValid := fun _ => by decide
  lutInvalid := by decide
  palette := by
    refine ⟨List.Pairwise.map _ (fun a b h => h) List.pairwise_lt_range, fun e he => ?_⟩
    obtain ⟨k, hk, rfl⟩ := List.mem_map.1 he
    exact List.mem_range.1 hk
  palMask := by
    intro k hk
    have hrise : risingKeys booted.pal := List.Pairwise.map _ (fun a b h => h) List.pairwise_lt_range
    have hfind : findKey booted.pal k = some (grey k) :=
      findKey_of_mem hrise (List.mem_map.2 ⟨k, List.mem_range.2 hk, rfl⟩)
    rw [hfind]
    exact BitVec.getLsbD_allOnes.trans (decide_eq_true hk)
  palCount := popcount_allOnes.symm
  palComplete := ⟨fun _ => popcount_allOnes, fun _ => rfl⟩
  mem := by decide
  pending := by intro p h; simp [booted, small, State.reset] at h

/-- An accepted command that may run on the booted machine. -/
theorem running_inv {i : Instr} (h : pendingReady ⟨i, 100, 0x1000, 8, 0⟩ (running i) = true) : Inv (running i) :=
  booted_inv.of_same_memories rfl rfl rfl rfl rfl rfl rfl rfl rfl booted_inv.mem fun p hp => by
    simp only [running, Option.some.injEq] at hp
    exact hp ▸ h

theorem running_map_inv : Inv (running .map) := running_inv (by decide)
theorem running_splat_inv : Inv (running (.splat 4 0)) := running_inv (by decide)

theorem building_inv : Inv building :=
  small_inv.of_same_memories rfl rfl rfl rfl rfl rfl rfl rfl rfl small_inv.mem fun p hp => by
    simp only [building, Option.some.injEq] at hp
    subst hp
    decide

/-- PAL[3] alone is written (vector 2.6, palette row 1). -/
def onePalette : State := { small with pal := [(3, 0xAABBCCDD)], palMask := markWritten 0 3, palCount := 1 }

theorem popcount_one : popcount (markWritten 0 3) = 1 := by
  rw [popcount_markWritten, popcount_zero]
  rfl

theorem onePalette_inv : Inv onePalette where
  params := by decide
  canvas := by decide
  lut := rfl
  lutValid := by decide
  lutInvalid := fun _ => rfl
  palette := by decide
  palMask := by
    intro k _
    show (markWritten 0 3).getLsbD k = (findKey [(3, (0xAABBCCDD : Word))] k).isSome
    rw [getLsbD_markWritten]
    by_cases h : k = 3
    · subst h; rfl
    · have h' : 3 ≠ k := fun e => h e.symm
      simp [findKey, h, h']
  palCount := popcount_one.symm
  palComplete := by
    show false = true ↔ popcount (markWritten 0 3) = 256
    rw [popcount_one]; decide
  mem := by decide
  pending := by intro p h; simp [onePalette, small, State.reset] at h

theorem booted_no_reset : ¬ resetsNow booted := by
  simp [resetsNow, writesNow, booted, small, State.reset]

/-! ### Witnesses: for every obligation with hypotheses, what meets them -/

theorem witness_DecodeOfEncodeIsTheCommand : ∀ i ∈ [Instr.nop, .clear, .buildLut 4095, .splat 4095 0, .addsat 0 4095, .map],
    i.wf = true := by decide

theorem witness_DecodedWordIsItsEncoding : decode 0x40FFFFFF = .ok (.addsat 4095 4095) := by decide

theorem witness_ReservedOpcodeIsRejected :
    6 ≤ ((0x60000000 : Word).extractLsb' 28 4).toNat ∧ 6 ≤ ((0xFFFFFFFF : Word).extractLsb' 28 4).toNat ∧
    State.reset.pending = none := by decide

theorem witness_NonzeroReservedBitsAreRejected :
    (∀ w ∈ [(0x00000001 : Word), 0x18000000, 0x50000001],
      ((w.extractLsb' 28 4).toNat = 0 ∨ (w.extractLsb' 28 4).toNat = 1 ∨ (w.extractLsb' 28 4).toNat = 5) ∧
        w.extractLsb' 0 28 ≠ 0) ∧
    (∀ w ∈ [(0x20001000 : Word), 0x28000FFF], (w.extractLsb' 28 4).toNat = 2 ∧ w.extractLsb' 12 16 ≠ 0) ∧
    (∀ w ∈ [(0x31000000 : Word), 0x48FFFFFF],
      ((w.extractLsb' 28 4).toNat = 3 ∨ (w.extractLsb' 28 4).toNat = 4) ∧ w.extractLsb' 24 4 ≠ 0) ∧
    State.reset.pending = none := by
  refine ⟨?_, ?_, ?_, rfl⟩ <;> intro w hw <;> fin_cases hw <;> decide

theorem witness_RegisterMapIsOneToOne :
    ((0x048 : BitVec 12), Reg.palCount) ∈ [((0x000 : BitVec 12), Reg.id), (0x048, .palCount)] ∧
    regAt 32 0x048 = some .palCount ∧ regAt 32 0x400 = some (.pal 0) ∧ regAt 32 0x7FC = some (.pal 255) := by decide

theorem witness_CmdWriteRunsTheDecodedCommand :
    booted.pending = none ∧ decode 0x30001002 = .ok (.splat 2 1) ∧ 0x30001002 < 2 ^ 32 ∧ (Instr.splat 2 1).wf = true ∧
    ({ booted with host := ⟨[.cmd (.splat 2 1)], 0, []⟩ } : State).host.prog[0]? = some (.cmd (.splat 2 1)) :=
  ⟨rfl, by decide, by norm_num, by decide, rfl⟩

theorem witness_HostStatementsActAsStated :
    let h : HostProgram := ⟨[.cmd .map, .wr .cmdArg 5, .rd .status 0, .label 3, .bnz 0 1 3, .bnz 0 1 4], 4, [(0, 3)]⟩
    h.prog[0]? = some (.cmd .map) ∧ Instr.map.wf = true ∧ h.prog[1]? = some (.wr .cmdArg 5) ∧
    h.prog[2]? = some (.rd .status 0) ∧ h.prog[3]? = some (.label 3) ∧ h.prog[4]? = some (.bnz 0 1 3) ∧
    tempValue h 0 &&& 1 ≠ 0 ∧ tempValue h 0 &&& 4 = 0 ∧ labelIndex 3 h.prog = some 3 ∧ labelIndex 4 h.prog = none := by
  decide

theorem witness_EngineTurnRunsThePendingCommand :
    (running .map).pending = some ⟨.map, 100, 0x1000, 8, 0⟩ ∧ booted.pending = none ∧ (running .map).events = [] ∧
    (running .map).host.prog.length ≤ (running .map).host.pc := by decide

theorem witness_CmdWriteWhileBusyIsDropped : building.pending = some ⟨.buildLut 4, 0, 0, 0, 0⟩ := by decide

theorem witness_FirstFailingCheckGivesTheCode : booted.pending = none ∧ small.pending = none := by decide

/-- MAP's last legal base (vector 2.6, MAP check 4) and the bounds of the other checks, each beside the first value refused. -/
theorem witness_CommandIsAcceptedExactlyWhenReady :
    booted.pending = none ∧ booted.palComplete = true ∧ booted.canvasInit = true ∧ booted.lutValid = true ∧
    small.pending = none ∧ small.lutValid = false ∧ small.palComplete = false ∧
    diamOk small.params 4 = true ∧ diamOk small.params 5 = false ∧ diamOk small.params 0 = false ∧
    cellIn booted.params 7 3 = true ∧ cellIn booted.params 8 3 = false ∧ cellIn booted.params 7 4 = false ∧
    splatFits booted.params 4 4 0 = true ∧ splatFits booted.params 4 5 0 = false ∧ splatFits booted.params 4 0 1 = false ∧
    strideOk ⟨3, 2, 2⟩ 3 = true ∧ strideOk ⟨3, 2, 2⟩ 2 = false ∧
    baseAligned 0x2000 = true ∧ baseAligned 0x2002 = false ∧
    rangeOk ⟨3, 2, 2⟩ 0xFFFFFFE8 3 = true ∧ rangeOk ⟨3, 2, 2⟩ 0xFFFFFFEC 3 = false := by decide

theorem witness_FrameCommandsNeedThePalette :
    small.pending = none ∧ small.palComplete = false ∧ Instr.clear ≠ .nop ∧ ∀ d, Instr.clear ≠ .buildLut d :=
  ⟨rfl, rfl, by decide, by simp⟩

theorem witness_NopOnlyCompletes : (running .nop).pending = some ⟨.nop, 100, 0x1000, 8, 0⟩ := by decide
theorem witness_ClearZeroesTheCanvas : (running .clear).pending = some ⟨.clear, 100, 0x1000, 8, 0⟩ := by decide

/-- With cells at both ends of the table: the corner at squared distance 8, the centre at 0. -/
theorem witness_BuildLutWritesTheFalloff :
    building.pending = some ⟨.buildLut 4, 0, 0, 0, 0⟩ ∧ 4 < 4096 ∧
    ((8 : Nat) : Int) = (((0 : Nat) : Int) - (4 / 2 : Nat)) ^ 2 + (((0 : Nat) : Int) - (4 / 2 : Nat)) ^ 2 ∧
    ((0 : Nat) : Int) = (((2 : Nat) : Int) - (4 / 2 : Nat)) ^ 2 + (((2 : Nat) : Int) - (4 / 2 : Nat)) ^ 2 := by decide

/-- The last cell, and its neighbour, which is unchanged. -/
theorem witness_AddsatAddsTheCopiedValue :
    (running (.addsat 7 3)).pending = some ⟨.addsat 7 3, 100, 0x1000, 8, 0⟩ ∧ 7 < booted.params.w ∧ 3 < booted.params.h ∧
    6 < booted.params.w ∧ (6 ≠ 7 ∨ 3 ≠ 3) := by decide

/-- The last position that fits, a cell of its footprint and a cell beside it. -/
theorem witness_SplatAddsEveryLutCell :
    (running (.splat 4 0)).pending = some ⟨.splat 4 0, 100, 0x1000, 8, 0⟩ ∧
    4 + booted.lutDiam.toNat ≤ booted.params.w ∧ 0 + booted.lutDiam.toNat ≤ booted.params.h ∧ 3 < booted.lutDiam.toNat ∧
    ¬ (4 ≤ 3 ∧ 3 < 4 + booted.lutDiam.toNat ∧ 0 ≤ 3 ∧ 3 < 0 + booted.lutDiam.toNat) := by decide

/-- A reply is one of the two that the next two statements speak of, also where none is fixed. -/
theorem nextReply_or (s : State) : nextReply s = .ok ∨ ∃ b, nextReply s = .err b := by
  cases nextReply s with
  | ok => exact .inl rfl
  | err b => exact .inr ⟨b, rfl⟩

/-- The first pixel and the last one. -/
theorem witness_MapWritesTheNextPixel :
    (running .map).pending = some ⟨.map, 100, 0x1000, 8, 0⟩ ∧ 0 < booted.params.w * booted.params.h ∧
    0 + 1 ≠ booted.params.w * booted.params.h ∧ 31 + 1 = booted.params.w * booted.params.h ∧
    nextReply (running .map) = .ok := by decide

theorem witness_MapStopsAtAFailedWrite :
    (running .map).pending = some ⟨.map, 100, 0x1000, 8, 0⟩ ∧
    nextReply { running .map with replies := [.err true] } = .err true ∧
    nextReply { running .map with replies := [.err false] } = .err false := by decide

theorem witness_OneStepCommandFrame :
    (running (.addsat 7 3)).pending = some ⟨.addsat 7 3, 100, 0x1000, 8, 0⟩ ∧ Instr.addsat 7 3 ≠ .map ∧
    ∃ t, exec (.addsat 7 3) (running (.addsat 7 3)) = .next t :=
  ⟨rfl, by decide, _, rfl⟩

theorem witness_MapStepFrame :
    (running .map).pending = some ⟨.map, 100, 0x1000, 8, 0⟩ ∧ ∃ t, exec .map (running .map) = .next t :=
  ⟨rfl, _, rfl⟩

theorem witness_IssueFrame : booted.pending = none ∧ ∃ t, exec .map booted = .next t := ⟨rfl, _, rfl⟩

/-- Both ends of both holes, and the last mapped offset before each. -/
theorem witness_BadAccessGetsABusError :
    let bad (width : Nat) (o : BitVec 12) : Bool :=
      decide (width ≠ 32 ∨ o.toNat % 4 ≠ 0 ∨ (0x04C ≤ o.toNat ∧ o.toNat ≤ 0x3FF) ∨ 0x800 ≤ o.toNat)
    bad 8 0x018 = true ∧ bad 32 0x002 = true ∧ bad 32 0x04C = true ∧ bad 32 0x3FC = true ∧ bad 32 0x800 = true ∧
    bad 32 0xFFC = true ∧ bad 32 0x048 = false ∧ bad 32 0x400 = false ∧ bad 32 0x7FC = false := by decide

theorem witness_OnlyDataPortReadsHaveSideEffects :
    Reg.status ≠ .canvasData ∧ Reg.status ≠ .lutData ∧ ({ small with err := 0b001001 } : State).err.getLsbD 0 = true ∧
    ({ small with err := 0b001001 } : State).err.getLsbD 3 = true := by decide

theorem witness_IdentityRegistersRead : State.reset.params.legal = true ∧ (⟨4096, 4096, 4095⟩ : Params).legal = true := by
  decide

theorem witness_WrittenRegistersReadBack : (0xFFFFFFFE : Word).getLsbD 0 = false := by decide

theorem witness_RegisterWriteFrame :
    Reg.palCount ∈ [Reg.id, .version, .canvasW, .canvasH, .lutDmax, .status, .lutDiam, .canvasData, .lutData, .palCount] ∧
    (0x00000002 : Word).getLsbD 0 = false := by decide

theorem witness_HostWritesLeaveThePendingCommand :
    (running .map).pending = some ⟨.map, 100, 0x1000, 8, 0⟩ ∧ (Reg.ctrl = .ctrl → (2 : Word).getLsbD 0 = false) ∧
    (Reg.outBase = .ctrl → (1 : Word).getLsbD 0 = false) := by decide

/-- A state for each clause: busy; the first column and the first row out of range; the last cell before the first CLEAR; and
the last cell after it. -/
theorem witness_CanvasDataRead :
    (running .nop).pending ≠ none ∧ booted.pending = none ∧ small.pending = none ∧
    ({ booted with canvasX := 8 } : State).params.w ≤ 8 ∧ ({ booted with canvasY := 4 } : State).params.h ≤ 4 ∧
    ¬ (booted.params.w ≤ 7 ∨ booted.params.h ≤ 3) ∧ small.canvasInit = false ∧ booted.canvasInit = true := by decide

/-- A state for each clause: busy; no LUT; the first column out of range; the last cell. -/
theorem witness_LutDataRead :
    (running .nop).pending ≠ none ∧ booted.pending = none ∧ small.lutValid = false ∧ booted.lutDiam.toNat ≤ 4 ∧
    booted.lutValid = true ∧ ¬ booted.lutDiam.toNat ≤ 3 := by decide

/-- The last entry, written and not written. -/
theorem witness_PaletteRead :
    booted.palMask.getLsbD (255 : BitVec 8).toNat = true ∧ small.palMask.getLsbD (255 : BitVec 8).toNat = false := by decide

/-- With an entry that is not written yet and one that is. -/
theorem witness_PaletteWriteIsTaken :
    (Inv small ∧ small.palComplete = false ∧ small.palMask.getLsbD (3 : BitVec 8).toNat = false) ∧
    Inv onePalette ∧ onePalette.palComplete = false ∧ onePalette.palMask.getLsbD (3 : BitVec 8).toNat = true :=
  ⟨⟨small_inv, rfl, by decide⟩, onePalette_inv, rfl, by decide⟩

theorem witness_PaletteWriteIsDroppedWhenComplete :
    booted.palComplete = true ∧ (∃ t, step booted = .next t) ∧ ¬ resetsNow booted :=
  ⟨rfl, ⟨booted, rfl⟩, booted_no_reset⟩

theorem witness_ResetGivesTheResetValues :
    booted.params.legal = true ∧ (∀ p, booted.pending = some p → p.instr ≠ .map) ∧
    (running .map).pending = some ⟨.map, 100, 0x1000, 8, 0⟩ :=
  ⟨by decide, by simp [booted, small, State.reset], rfl⟩

theorem witness_SoftResetIsReset :
    (1 : Word).getLsbD 0 = true ∧ (3 : Word).getLsbD 0 = true ∧
    (running .map).pending = some ⟨.map, 100, 0x1000, 8, 0⟩ ∧ (running .map).replies = .ok :: List.replicate 31 .ok ∧
    (∀ p, building.pending = some p → p.instr ≠ .map) :=
  ⟨by decide, by decide, rfl, rfl, by simp [building]⟩

theorem witness_StoppedMapWordHasTwoOutcomes :
    (running .map).pending = some ⟨.map, 100, 0x1000, 8, 0⟩ ∧ nextReply (running .map) = .ok ∧
    nextReply { running .map with replies := [.err false] } = .err false ∧ BusReply.ok ≠ .err false := by decide

theorem witness_InterruptFollowsDone :
    (running .nop).pending = some ⟨.nop, 100, 0x1000, 8, 0⟩ ∧
    after State.pending (exec .nop (running .nop)) = some none ∧
    small.pending = none ∧ after State.pending (exec .clear small) = some none ∧
    booted.pending = none ∧ after (fun t => t.pending.isSome) (exec .clear booted) = some true := by decide

theorem witness_FalloffLaws :
    4 ≤ 9 ∧ 0 < 55 ∧ 2295 * 55 ≤ 1000 * 128 ∧ ¬ (2295 * 56 ≤ 1000 * 128) ∧ 1000 * 128 < 9 * 14223 ∧
    ¬ (1000 * 128 < 9 * 14222) ∧ 1 ≤ 4 / 2 ∧ 4 / 2 + 1 < 4 := by decide

theorem witness_SaturatingAddLaws :
    List.Perm [(200 : Byte), 100, 5] [5, 100, 200] ∧ cellAt [(0, (255 : Byte))] (canvasIndex 8 0 0) = 255 := by decide

/-- The last base that the range check admits (vector 2.6, MAP check 4), and its last pixel. -/
theorem witness_PixelAddressesAreDistinctAndAligned :
    strideOk ⟨3, 2, 2⟩ 3 = true ∧ baseAligned 0xFFFFFFE8 = true ∧ rangeOk ⟨3, 2, 2⟩ 0xFFFFFFE8 3 = true ∧
    2 < (⟨3, 2, 2⟩ : Params).w ∧ 1 < (⟨3, 2, 2⟩ : Params).h ∧ pixelAddr 0xFFFFFFE8 3 2 1 = 0xFFFFFFFC := by decide

theorem witness_EveryStepKeepsTheInvariant : Inv (before .engine (running .map)) ∧
    ∃ t, step (before .engine (running .map)) = .next t :=
  ⟨running_map_inv.of_sameMachine ⟨_, _, _, _, _, rfl⟩, _, rfl⟩

/-- Each kind of fault happens, and an access at the very end of the external memory is within it. -/
theorem witness_NothingTheMachineDoesStops :
    step (before (.memRead 0xFFFFFFFD 4) small) = .fault (.outsideMemory 0xFFFFFFFD) ∧
    (0xFFFFFFFC : Word).toNat + 4 ≤ 2 ^ 32 ∧ (0xFFFFFFFF : Word).toNat + [(1 : Byte)].length ≤ 2 ^ 32 ∧
    step (before (.memWrite 0xFFFFFFFF [1, 2]) small) = .fault (.outsideMemory 0xFFFFFFFF) ∧
    step (before .host { small with host := ⟨[.cmd (.splat 4096 0)], 0, []⟩ }) = .fault (.operandTooBig (.splat 4096 0)) ∧
    step (before .host { small with host := ⟨[.bnz 0 1 9], 0, [(0, 1)]⟩ }) = .fault (.missingLabel 9) :=
  ⟨rfl, by decide, by decide, rfl, rfl, rfl⟩

theorem witness_EveryAcceptedCommandEnds :
    let s : State := { running .map with host := ⟨pseudoWait 0 1 ++ [.wr .ctrl 1], 0, []⟩ }
    Inv s ∧ hostWf s.host = true ∧ s.events = [] ∧ s.pending ≠ none :=
  ⟨running_map_inv.of_sameMachine ⟨_, _, _, _, _, rfl⟩, by decide, rfl, by simp [running]⟩

theorem witness_EngineStepsAreBounded :
    Inv (running (.splat 4 0)) ∧ (running (.splat 4 0)).pending = some ⟨.splat 4 0, 100, 0x1000, 8, 0⟩ ∧
    Inv (running .map) ∧ (running .map).pending = some ⟨.map, 100, 0x1000, 8, 0⟩ ∧
    32 + 0 = booted.params.w * booted.params.h :=
  ⟨running_splat_inv, rfl, running_map_inv, rfl, rfl⟩

theorem witness_MapWritesExactlyItsPixels :
    Inv (running .map) ∧ (running .map).pending = some ⟨.map, 100, 0x1000, 8, 0⟩ ∧
    (running .map).replies = List.replicate (booted.params.w * booted.params.h) .ok ++ [] :=
  ⟨running_map_inv, rfl, rfl⟩

/-- The error at the first pixel and at the last one. -/
theorem witness_AbortedMapWritesAPrefix :
    (∀ k ∈ [0, 31], k < booted.params.w * booted.params.h) ∧
    Inv { running .map with replies := List.replicate 31 .ok ++ [.err true] } ∧
    ({ running .map with replies := List.replicate 0 .ok ++ [.err false] } : State).replies = [.err false] :=
  ⟨by decide,
    running_map_inv.of_same_memories rfl rfl rfl rfl rfl rfl rfl rfl rfl running_map_inv.mem
      fun p hp => running_map_inv.pending p hp,
    rfl⟩

theorem witness_SplatOrderDoesNotMatter :
    Inv booted ∧ booted.pending = none ∧ booted.palComplete = true ∧ booted.canvasInit = true ∧ booted.lutValid = true ∧
    (∀ q ∈ [(0, 0), (4, 0), (2, 0)],
      q.1 + booted.lutDiam.toNat ≤ booted.params.w ∧ q.2 + booted.lutDiam.toNat ≤ booted.params.h) ∧
    List.Perm [(2, 0), (0, 0), (4, 0)] [(0, 0), (4, 0), (2, 0)] :=
  ⟨booted_inv, rfl, rfl, rfl, rfl, by decide, by decide⟩

/-- BUILD_LUT's engine step changes the LUT; on the booted machine it is valid and nothing resets. -/
theorem witness_OnlyBuildLutAndResetChangeTheLut :
    after (fun t => decide (t.lutDiam ≠ building.lutDiam)) (step (before .engine building)) = some true ∧
    Inv booted ∧ booted.lutValid = true ∧ ¬ resetsNow booted ∧ ∃ t, step booted = .next t :=
  ⟨by decide, booted_inv, rfl, booted_no_reset, booted, rfl⟩

theorem witness_OnlyThreeCommandsWriteTheCanvas :
    after (fun t => decide (t.canvas ≠ booted.canvas)) (step (before .engine (running (.addsat 7 3)))) = some true := by
  decide

theorem witness_ExternalMemoryChangesOnlyByMapOrHost :
    after (fun t => decide (t.mem ≠ booted.mem)) (step (before .engine (running .map))) = some true ∧
    after (fun t => decide (t.mem ≠ booted.mem)) (step (before .reset (running .map))) = some true ∧
    after (fun t => decide (t.mem ≠ booted.mem)) (step (before (.memWrite 0 [1]) booted)) = some true := by decide +kernel

/-- The flags stand; and a written 1 clears DONE and an ERR bit. -/
theorem witness_OnlyResetClearsReadinessFlags :
    (booted.palComplete = true ∧ booted.canvasInit = true ∧ booted.lutValid = true ∧ ¬ resetsNow booted ∧
      ∃ t, step booted = .next t) ∧
    after State.done (step (before (.write 32 0x020 1) booted)) = some false ∧ booted.done = true ∧
    after (fun t => t.err.getLsbD 5) (step (before (.write 32 0x01C 0x3F) { booted with err := 0b100000 })) =
      some false := by
  exact ⟨⟨rfl, rfl, rfl, booted_no_reset, booted, rfl⟩, by decide, rfl, by decide⟩

theorem witness_HiddenMemoriesAreNotObservable :
    (∀ p, small.pending = some p → pendingReady p small = true) ∧ (∃ t, step (before .reset small) = .next t) ∧
    small.canvasInit = false ∧ small.lutValid = false :=
  ⟨by simp [small, State.reset], ⟨_, rfl⟩, rfl, rfl⟩

/-- With a word that is written before the MAP, and with one that nothing has written, whose bytes are free values. -/
theorem witness_HostAccessRacesWithMap :
    let s : State := { running .map with mem := [(0x1000, 1), (0x1001, 2), (0x1002, 3), (0x1003, 4)] }
    (Inv s ∧ s.pending = some ⟨.map, 100, 0x1000, 8, 0⟩ ∧ nextReply s = .ok ∧
      readBytes s.mem (nextPixelAddr ⟨.map, 100, 0x1000, 8, 0⟩ s) 4 = [1, 2, 3, 4]) ∧
    Inv (running .map) ∧ (running .map).pending = some ⟨.map, 100, 0x1000, 8, 0⟩ ∧ nextReply (running .map) = .ok ∧
    readByte (running .map).mem (nextPixelAddr ⟨.map, 100, 0x1000, 8, 0⟩ (running .map)) = none :=
  ⟨⟨running_map_inv.of_same_memories rfl rfl rfl rfl rfl rfl rfl rfl rfl (by decide)
      fun p hp => running_map_inv.pending p hp,
    rfl, rfl, by decide⟩, running_map_inv, rfl, rfl, by decide⟩

theorem witness_UnwaitedCommandHasTwoOutcomes :
    (running .nop).pending = some ⟨.nop, 100, 0x1000, 8, 0⟩ ∧ Instr.nop ≠ .map ∧ Instr.clear.wf = true := by decide

theorem witness_EndedRunStaysAsItIs :
    booted.host.prog.length ≤ booted.host.pc ∧ booted.events = [] ∧ booted.pending = none := by decide

end Sys2Proof.Tests
end

namespace Sys2Proof.Machine

/-! The interrupt output (R45, R129, R131): it follows IRQ_EN and DONE, an ending raises DONE, and the host lowers it
through INT or CTRL. -/

theorem irq_iff (s : State) : s.irq = true ↔ s.irqEn = true ∧ s.done = true := by simp [State.irq]

theorem irq_of_done {s : State} (h : s.done = true) : s.irq = s.irqEn := by simp [State.irq, h]

/-- R90, R91: the engine's step ends the command, in a state with the same IRQ_EN, or leaves one pending (a MAP with pixels
to go). -/
theorem effectOf_completes_or_stays (p : Pending) (s : State) :
    (∃ c u, u.irqEn = s.irqEn ∧ effectOf p s = complete c u) ∨ (effectOf p s).pending ≠ none := by
  obtain ⟨i, v, b, st, n⟩ := p
  cases i with
  | map =>
    rcases mapPixel_cases ⟨.map, v, b, st, n⟩ s with ⟨_, _, h⟩ | ⟨_, _, h⟩ | ⟨_, h⟩
    · exact .inl ⟨_, _, putPixel_irqEn _ s, h⟩
    · exact .inr (by simp [effectOf, h])
    · exact .inl ⟨_, _, putPixel_irqEn _ s, h⟩
  | _ => refine .inl ⟨_, _, ?_, rfl⟩; rfl

/-- A command that has ended shows IRQ_EN at irq, since `complete` sets DONE (R91, R129). -/
theorem irq_of_ended {s t : State} {p : Pending} (hp : s.pending = some p) (h : exec p.instr s = .next t)
    (ht : t.pending = none) : t.irq = s.irqEn := by
  obtain rfl : effectOf p s = t := by simpa [exec_running hp] using h
  rcases effectOf_completes_or_stays p s with ⟨c, u, hu, he⟩ | hstay
  · rw [he, irq_of_done (complete_done c u), complete_irqEn, hu]
  · exact absurd ht hstay

/-- An issue rejects, and leaves no command pending, or accepts, and leaves one (R87, R88). -/
theorem exec_idle_cases {s t : State} {i : Instr} (hp : s.pending = none) (h : exec i s = .next t) :
    (t.pending = none ∧ ∃ c, t = reject c i.opcode s) ∨ (t.pending ≠ none ∧ t = accept i s) := by
  obtain rfl : issue i (checkOf i s) s = t := by simpa [exec_idle hp] using h
  rcases issue_cases i (checkOf i s) s with ⟨_, he⟩ | ⟨_, he⟩ <;> rw [he]
  · exact .inr ⟨by simp, rfl⟩
  · exact .inl ⟨by simpa using hp, _, rfl⟩

/-- A rejected command shows IRQ_EN at irq, since `reject` sets DONE (R87, R129). -/
theorem irq_of_rejected {s t : State} {i : Instr} (hp : s.pending = none) (h : exec i s = .next t)
    (ht : t.pending = none) : t.irq = s.irqEn := by
  rcases exec_idle_cases hp h with ⟨_, c, rfl⟩ | ⟨hacc, _⟩
  · rw [irq_of_done (reject_done c _ s), reject_irqEn]
  · exact absurd ht hacc

/-- R88: INT.DONE is not changed by an acceptance. -/
theorem done_of_accepted {s t : State} {i : Instr} (hp : s.pending = none) (h : exec i s = .next t)
    (ht : t.pending ≠ none) : t.done = s.done := by
  rcases exec_idle_cases hp h with ⟨hrej, _⟩ | ⟨_, rfl⟩
  · exact absurd hrej ht
  · exact accept_done i s

/-- R82: a turn that writes a register other than CMD, at its offset. -/
theorem step_writePlain {r : Reg} (h : r ≠ .cmd) (v : Word) (s : State) :
    step (before (.write 32 r.offset v) s) = .next (writePlain r v (respond .done s)) := by
  rw [step_write (regAt_offset r), writeReg_plain h]

/-- R27: a written 1 clears DONE, and with it irq. -/
theorem step_ackInt (s : State) :
    ∃ t, step (before (.write 32 0x020 1) s) = .next t ∧ t.irq = false ∧ t.irqEn = s.irqEn :=
  ⟨_, step_writePlain (r := .int) (by decide) 1 s, by simp [writePlain, writeInt, State.irq],
    by simp [writePlain, writeInt]⟩

/-- R24, R129: IRQ_EN = 0 masks irq and leaves DONE. -/
theorem step_maskIrq (s : State) :
    ∃ t, step (before (.write 32 0x014 0) s) = .next t ∧ t.irq = false ∧ t.done = s.done :=
  ⟨_, step_writePlain (r := .ctrl) (by decide) 0 s, by simp [writePlain, writeCtrl, State.irq],
    by simp [writePlain, writeCtrl]⟩

/-- Settles O41: irq is the view of R45, both endings set DONE, an acceptance does not, and the two host writes are a step each. -/
theorem interruptFollowsDone : Obligations.InterruptFollowsDone := fun s =>
  ⟨irq_iff s, fun _ _ => irq_of_ended, fun _ _ => irq_of_rejected, fun _ _ => done_of_accepted, step_ackInt s,
    step_maskIrq s⟩

end Sys2Proof.Machine

namespace Sys2Proof

/-! The words that are no command (R73, R74), by opcode and by the reserved bits of each format (R68). -/

theorem decode_of_reservedOpcode {w : Word} (h : 6 ≤ (opField w).toNat) : decode w = .error .opcode := by
  unfold decode
  split
  case h_7 => rfl
  all_goals omega

theorem decode_formatN_reserved {w : Word}
    (hop : (opField w).toNat = 0 ∨ (opField w).toNat = 1 ∨ (opField w).toNat = 5) (hr : w.extractLsb' 0 28 ≠ 0) :
    decode w = .error .reservedBits := by
  rcases hop with h | h | h <;> rw [decode, h] <;> exact if_neg hr

theorem decode_formatD_reserved {w : Word} (hop : (opField w).toNat = 2) (hr : w.extractLsb' 12 16 ≠ 0) :
    decode w = .error .reservedBits := by
  rw [decode, hop]; exact if_neg hr

theorem decode_formatP_reserved {w : Word} (hop : (opField w).toNat = 3 ∨ (opField w).toNat = 4)
    (hr : w.extractLsb' 24 4 ≠ 0) : decode w = .error .reservedBits := by
  rcases hop with h | h <;> rw [decode, h] <;> exact if_neg hr

end Sys2Proof

namespace Sys2Proof.Machine

/-- R84, R87: a turn that writes an illegal word to CMD, with no command pending, rejects it. -/
theorem step_writeCmd_illegal {s : State} (hp : s.pending = none) {w : Word} {e : Illegal} (hd : decode w = .error e) :
    step (before (.write 32 0x024 w) s) = .next (reject (illegalCode e) (opField w) (respond .done s)) := by
  have hreg : regAt 32 0x024 = some .cmd := regAt_offset .cmd
  rw [step_write hreg, writeCmd_illegal (s := respond .done s) hp hd]

/-- Settles O3: the decoder looks at the opcode alone, and an illegal word is rejected with its code. -/
theorem reservedOpcodeIsRejected : Obligations.ReservedOpcodeIsRejected := by
  intro s w hop
  have hd : decode w = .error .opcode := decode_of_reservedOpcode hop
  exact ⟨hd, rfl, fun hp => step_writeCmd_illegal hp hd⟩

/-- Settles O4: each format has its own reserved bits, and an illegal word is rejected with its code. -/
theorem nonzeroReservedBitsAreRejected : Obligations.NonzeroReservedBitsAreRejected := by
  intro s w h
  have hd : decode w = .error .reservedBits := by
    rcases h with ⟨hop, hr⟩ | ⟨hop, hr⟩ | ⟨hop, hr⟩
    · exact decode_formatN_reserved hop hr
    · exact decode_formatD_reserved hop hr
    · exact decode_formatP_reserved hop hr
  exact ⟨hd, rfl, fun hp => step_writeCmd_illegal hp hd⟩

end Sys2Proof.Machine

namespace Sys2Proof

/-- A decoded word carries its command's opcode, so LAST_OP gets the word's own field (R76, R87, R88). -/
theorem opcode_of_decode {w : Word} {i : Instr} (h : decode w = .ok i) : i.opcode = opField w := by
  apply BitVec.eq_of_toNat_eq
  unfold decode at h
  split at h
  case h_7 => cases h
  all_goals
    rename_i hop
    split at h
    · cases h; exact hop.symm
    · cases h

end Sys2Proof

namespace Sys2Proof.Machine

/-! The CMD write (R84 to R89): dropped while a command is pending, else answered by the first failing check. -/

/-- R82, R84: a turn that writes CMD is that register write, with the normal response recorded. -/
theorem step_writeCmd (w : Word) (s : State) :
    step (before (.write 32 0x024 w) s) = writeReg .cmd w (respond .done s) :=
  step_write (r := .cmd) (regAt_offset .cmd) w s

/-- R85: a turn that writes CMD while a command is pending is an overrun, whatever the word. -/
theorem step_writeCmd_busy {s : State} {p : Pending} (hp : s.pending = some p) (w : Word) :
    step (before (.write 32 0x024 w) s) = .next (overrun (respond .done s)) :=
  (step_writeCmd w s).trans (writeCmd_busy (s := respond .done s) hp w)

/-- Settles O10: the write records its normal response, and the overrun then sets its ERR bit alone. -/
theorem cmdWriteWhileBusyIsDropped : Obligations.CmdWriteWhileBusyIsDropped :=
  fun _ w _ hp => step_writeCmd_busy hp w

/-- The checks read nothing of a host access's response. -/
@[simp] theorem checkOf_respond (i : Instr) (r : Response) (s : State) : checkOf i (respond r s) = checkOf i s := by
  cases i <;> rfl

/-- R84: a turn that writes a command's word to CMD, with no command pending, issues it. -/
theorem step_writeCmd_command {s : State} (hp : s.pending = none) {w : Word} {i : Instr} (hd : decode w = .ok i) :
    step (before (.write 32 0x024 w) s) = .next (issue i (checkOf i s) (respond .done s)) := by
  rw [step_writeCmd, writeCmd_command (s := respond .done s) hp hd, exec_idle (s := respond .done s) hp, checkOf_respond]

/-! The checks of R86 with their bounds as inequalities (R98, R104, R108, R116). -/

theorem checkBuildLut_eq (d : Nat) (s : State) :
    checkBuildLut d s =
      if s.lutValid = true then .lutLocked
      else if ¬ (1 ≤ d ∧ d ≤ s.params.dmax ∧ d ≤ s.params.w ∧ d ≤ s.params.h) then .badDiameter
      else .ok := by
  simp only [checkBuildLut, ← Bool.not_eq_true, diamOk_iff]

theorem checkAddsat_eq (x y : Nat) (s : State) :
    checkAddsat x y s =
      if s.palComplete = false then .noPalette
      else if s.canvasInit = false then .noClear
      else if ¬ (x < s.params.w ∧ y < s.params.h) then .bounds
      else .ok := by
  simp only [checkAddsat, ← Bool.not_eq_true, cellIn_iff]

theorem checkSplat_eq (x y : Nat) (s : State) :
    checkSplat x y s =
      if s.palComplete = false then .noPalette
      else if s.canvasInit = false then .noClear
      else if s.lutValid = false then .noLut
      else if ¬ (x + s.lutDiam.toNat ≤ s.params.w ∧ y + s.lutDiam.toNat ≤ s.params.h) then .bounds
      else .ok := by
  simp only [checkSplat, ← Bool.not_eq_true, splatFits_iff]

theorem checkMap_eq (s : State) :
    checkMap s =
      if s.palComplete = false then .noPalette
      else if s.canvasInit = false then .noClear
      else if ¬ s.params.w ≤ s.outStride.toNat then .badStride
      else if ¬ s.outBase.toNat % 4 = 0 then .misaligned
      else if ¬ s.outBase.toNat + 4 * ((s.params.h - 1) * s.outStride.toNat + s.params.w) ≤ 2 ^ 32 then .addrRange
      else .ok := by
  simp only [checkMap, ← Bool.not_eq_true, strideOk, baseAligned_iff, rangeOk, decide_eq_true_eq]

/-- Settles O11: an illegal word has its decoder's code; a command is issued with its own chain of checks, whose branches are
those of the statement, the last one the acceptance. -/
theorem firstFailingCheckGivesTheCode : Obligations.FirstFailingCheckGivesTheCode := by
  refine ⟨rfl, fun s w hp => ?_⟩
  dsimp only
  cases hd : decode w with
  | error e => cases e <;> exact step_writeCmd_illegal hp hd
  | ok i =>
    have hop : w.extractLsb' 28 4 = i.opcode := (opcode_of_decode hd).symm
    rw [step_writeCmd_command hp hd, hop]
    cases i with
    | nop => rfl
    | clear => simp only [checkOf, checkClear]; split_ifs <;> rfl
    | buildLut d => simp only [checkOf, checkBuildLut_eq]; split_ifs <;> rfl
    | splat x y => simp only [checkOf, checkSplat_eq]; split_ifs <;> rfl
    | addsat x y => simp only [checkOf, checkAddsat_eq]; split_ifs <;> rfl
    | map => simp only [checkOf, checkMap_eq]; split_ifs <;> rfl

end Sys2Proof.Machine

namespace Sys2Proof.Machine

/-! The falloff (R95 to R97): its value away from the centre, its two edges, and the symmetries of the squared distance. -/

/-- R96: away from the centre the energy is the clipped quotient. -/
theorem falloff_of_pos (r : Nat) {sq : Nat} (h : 0 < sq) : falloff r sq = min 255 (1000 * r / (9 * sq)) :=
  if_neg h.ne'

/-- R97 law 2. -/
@[simp] theorem falloff_zero (r : Nat) : falloff r 0 = 255 := rfl

/-- R97 law 3: the centre is the maximum, and elsewhere a larger divisor gives a smaller quotient. -/
theorem falloff_antitone (r : Nat) {sq sq' : Nat} (h : sq ≤ sq') : falloff r sq' ≤ falloff r sq := by
  rcases Nat.eq_zero_or_pos sq with rfl | hpos
  · exact falloff_le r sq'
  · rw [falloff_of_pos r hpos, falloff_of_pos r (hpos.trans_le h)]
    exact min_le_min_left 255 (Nat.div_le_div_left (by omega) (by omega))

/-- R97 law 4: the clip acts exactly when the quotient reaches 255, and 255 · 9 = 2295. -/
theorem falloff_eq_max_iff (r : Nat) {sq : Nat} (h : 0 < sq) : falloff r sq = 255 ↔ 2295 * sq ≤ 1000 * r := by
  rw [falloff_of_pos r h, min_eq_left_iff, Nat.le_div_iff_mul_le (by omega)]
  omega

/-- R97 law 5: the quotient is 0 exactly when the divisor exceeds the dividend. -/
theorem falloff_eq_zero_iff (r : Nat) {sq : Nat} (h : 0 < sq) : falloff r sq = 0 ↔ 1000 * r < 9 * sq := by
  have hdiv : 1000 * r / (9 * sq) = 0 ↔ 1000 * r < 9 * sq := Nat.div_eq_zero_iff_lt (by omega)
  rw [falloff_of_pos r h, ← hdiv]
  omega

/-- R95: the two coordinates play the same part. -/
theorem sqDist_comm (r i j : Nat) : sqDist r i j = sqDist r j i := Nat.add_comm _ _

/-- R95: the offsets +a and -a from the centre column are equally far. -/
theorem sqDist_mirror {r a : Nat} (h : a ≤ r) (j : Nat) : sqDist r (r + a) j = sqDist r (r - a) j := by
  have hoff : (((r + a : Nat) : Int) - r).natAbs = (((r - a : Nat) : Int) - r).natAbs := by omega
  simp only [sqDist, hoff]

/-- R97 law 7. -/
theorem lutValue_transpose (d i j : Nat) : lutValue d i j = lutValue d j i := by
  simp only [lutValue, sqDist_comm _ i j]

/-- R97 law 8, for columns; the rows follow by the transpose. -/
theorem lutValue_mirror {d a : Nat} (h : a ≤ d / 2) (j : Nat) :
    lutValue d (d / 2 + a) j = lutValue d (d / 2 - a) j := by
  simp only [lutValue, radius, sqDist_mirror h]

/-- Settles O42: the laws of the quotient, then those of the squared distance. The mirror law holds at a column beyond the
grid too, so its bound is not used. -/
theorem falloffLaws : Obligations.FalloffLaws := by
  refine ⟨falloff_le, falloff_zero, fun r _ _ => falloff_antitone r, fun r _ => falloff_eq_max_iff r,
    fun r _ => falloff_eq_zero_iff r, ?_, lutValue_transpose, fun d a j ha _ => ⟨lutValue_mirror ha j, ?_⟩⟩
  · exact (toNat_lutValue 1 0 0).trans (falloff_zero 0)
  · rw [lutValue_transpose d j, lutValue_transpose d j]
    exact lutValue_mirror ha j

/-! The LUT read port (R101). -/

/-- STATUS.BUSY is the presence of a pending command (R25, R43). -/
theorem busy_iff (s : State) : s.busy = true ↔ s.pending ≠ none := Option.isSome_iff_ne_none

/-- R81: a turn that reads a register, at its offset. -/
theorem step_readReg (r : Reg) (s : State) :
    step (before (.read 32 r.offset) s) = .next (respond (.data (readReg r s).1) (readReg r s).2) :=
  step_read (regAt_offset r) s

/-- Settles O33: the read's own chain of refusals, each recorded as a response of 0 with its ERR bit, and the cell last. -/
theorem lutDataRead : Obligations.LutDataRead := by
  intro s
  refine (step_readReg .lutData s).trans ?_
  simp only [readReg, readLutData, busy_iff]
  split_ifs <;> rfl

end Sys2Proof.Machine

namespace Sys2Proof.Machine

/-! The saturating add at one cell (R102, R103), and the canvas read port (R107). -/

/-- R103 laws 1 and 2: a cell that gets a list of contributions holds their exact sum with its start, clipped once. -/
theorem toNat_cellAt_foldl_addsatCell (w x y : Nat) (vs : List Byte) (canvas : List (Nat × Byte)) :
    (cellAt (vs.foldl (fun c v => addsatCell w c x y v) canvas) (canvasIndex w x y)).toNat =
      min 255 ((cellAt canvas (canvasIndex w x y)).toNat + (vs.map BitVec.toNat).sum) := by
  induction vs generalizing canvas with
  | nil =>
    have hcell := (cellAt canvas (canvasIndex w x y)).isLt
    simp only [List.foldl_nil, List.map_nil, List.sum_nil]
    omega
  | cons v vs ih =>
    rw [List.foldl_cons, ih, cellAt_addsatCell, if_pos rfl, toNat_sat8, List.map_cons, List.sum_cons]
    omega

/-- Settles O43: every law follows from the closed form, whose sum does not see the order. -/
theorem saturatingAddLaws : Obligations.SaturatingAddLaws := by
  intro w x y canvas vs
  have closed := fun l => toNat_cellAt_foldl_addsatCell w x y l canvas
  refine ⟨closed vs, (closed vs).trans_le (min_le_left _ _), fun us hperm => ?_, ?_, fun hfull => ?_⟩ <;>
    apply BitVec.eq_of_toNat_eq
  · rw [closed us, closed vs, (hperm.map BitVec.toNat).sum_eq]
  · have hsum : ([(0 : Byte)].map BitVec.toNat).sum = 0 := rfl
    rw [closed [0], hsum, Nat.add_zero]
    exact min_eq_right (Nat.le_of_lt_succ (cellAt canvas (canvasIndex w x y)).isLt)
  · rw [closed vs, hfull]
    exact min_eq_left (Nat.le_add_right 255 _)

/-- R104, negated: a position outside the canvas is out of range in x or in y. -/
theorem cellIn_eq_false_iff (p : Params) (x y : Nat) : cellIn p x y = false ↔ p.w ≤ x ∨ p.h ≤ y := by
  rw [← Bool.not_eq_true, cellIn_iff]
  omega

/-- Settles O32: the read's own chain of refusals, each recorded as a response of 0 with its ERR bit, and the cell last. -/
theorem canvasDataRead : Obligations.CanvasDataRead := by
  intro s
  refine (step_readReg .canvasData s).trans ?_
  simp only [readReg, readCanvasData, busy_iff, cellIn_eq_false_iff]
  split_ifs <;> rfl

end Sys2Proof.Machine

namespace Sys2Proof.Machine

/-! The palette's host accesses (R112 to R115). -/

/-- Settles O36: a palette read returns the entry if the mask marks it, and only the data ports have side effects. -/
theorem paletteRead : Obligations.PaletteRead := fun s k => step_readReg (.pal k) s

theorem writePalette_incomplete {s : State} (h : s.palComplete = false) (k : BitVec 8) (v : Word) :
    writePalette k v s = storePalette k v s := by
  simp [writePalette, h]

theorem writePalette_complete {s : State} (h : s.palComplete = true) (k : BitVec 8) (v : Word) :
    writePalette k v s = s.setErr errPalLocked := by
  simp [writePalette, h]

/-- A palette read after a write that is taken: the value written at that entry, what was read before at every other. -/
theorem readReg_pal_storePalette (k k' : BitVec 8) (v : Word) (s : State) :
    (readReg (.pal k') (storePalette k v s)).1 = if k' = k then v else (readReg (.pal k') s).1 := by
  simp only [readReg, storePalette, getLsbD_markWritten, palEntry, findKey_insertKey]
  by_cases hk : k' = k
  · simp [hk]
  · have hne : k'.toNat ≠ k.toNat := fun h => hk (BitVec.eq_of_toNat_eq h)
    simp [hk, hne, hne.symm]

/-- R37, R112: the write counts its entry unless it was marked before. -/
theorem toNat_palCount_storePalette {s : State} (h : s.palCount.toNat = popcount s.palMask) (k : BitVec 8) (v : Word) :
    (storePalette k v s).palCount.toNat = s.palCount.toNat + if s.palMask.getLsbD k.toNat then 0 else 1 := by
  rw [h, ← popcount_markWritten]
  exact toNat_ofNat_popcount _

/-- R113: a palette that was not complete becomes so exactly when its count reaches 256. -/
theorem palComplete_storePalette_iff {s : State} (h : s.palComplete = false) (k : BitVec 8) (v : Word) :
    (storePalette k v s).palComplete = true ↔ (storePalette k v s).palCount.toNat = 256 := by
  simp only [storePalette, h, Bool.false_or, decide_eq_true_eq, toNat_ofNat_popcount]

/-- Settles O34: the write is a `storePalette` on the state with its response recorded. -/
theorem paletteWriteIsTaken : Obligations.PaletteWriteIsTaken := by
  intro s k v hinv hopen
  have hstep : step (before (.write 32 (Reg.pal k).offset v) s) = .next (storePalette k v (respond .done s)) := by
    rw [step_writePlain (by simp), writePlain, writePalette_incomplete (by simpa using hopen)]
  refine ⟨_, hstep, ?_, fun k' hk => ?_, getLsbD_markWritten s.palMask k, ?_, ?_, rfl⟩
  · rw [readReg_pal_storePalette, if_pos rfl]
  · rw [readReg_pal_storePalette, if_neg hk]; rfl
  · exact toNat_palCount_storePalette (s := respond .done s) hinv.palCount k v
  · exact palComplete_storePalette_iff (s := respond .done s) hopen k v

/-- The palette memory, its mask, its count and its completeness are those of `s` (R37, R41, R42, R113). -/
structure SamePalette (s t : State) : Prop where
  pal : t.pal = s.pal
  mask : t.palMask = s.palMask
  count : t.palCount = s.palCount
  complete : t.palComplete = s.palComplete

theorem SamePalette.trans {s t u : State} (h : SamePalette s t) (h' : SamePalette t u) : SamePalette s u :=
  ⟨h'.pal.trans h.pal, h'.mask.trans h.mask, h'.count.trans h.count, h'.complete.trans h.complete⟩

theorem SameMachine.samePalette {s t : State} (h : SameMachine s t) : SamePalette s t := by
  obtain ⟨_, _, _, _, _, rfl⟩ := h
  exact ⟨rfl, rfl, rfl, rfl⟩

/-- No command writes the palette, not at its issue, in its engine step, or as an overrun (R41). -/
theorem exec_samePalette {i : Instr} {s t : State} (h : exec i s = .next t) : SamePalette s t := by
  cases hp : s.pending with
  | none =>
    obtain rfl : issue i (checkOf i s) s = t := by simpa [exec_idle hp] using h
    rw [issue_frame]
    exact ⟨rfl, rfl, rfl, rfl⟩
  | some p =>
    by_cases hi : p.instr = i
    · subst hi
      obtain rfl : effectOf p s = t := by simpa [exec_running hp] using h
      unfold effectOf
      cases p.instr with
      | map => dsimp only; rw [mapPixel_frame]; exact ⟨rfl, rfl, rfl, rfl⟩
      | _ => exact ⟨rfl, rfl, rfl, rfl⟩
    · obtain rfl : overrun s = t := by simpa [exec_beside hp hi] using h
      exact ⟨rfl, rfl, rfl, rfl⟩

/-- R114: once the palette is complete, a register write that is no soft reset leaves it alone. -/
theorem writePlain_samePalette {s : State} (hpal : s.palComplete = true) {r : Reg} {v : Word}
    (hc : r = .ctrl → v.getLsbD 0 = false) : SamePalette s (writePlain r v s) := by
  cases r with
  | pal k => rw [writePlain, writePalette_complete hpal]; exact ⟨rfl, rfl, rfl, rfl⟩
  | ctrl => simp only [writePlain, writeCtrl, hc rfl]; exact ⟨rfl, rfl, rfl, rfl⟩
  | int => simp only [writePlain, writeInt]; split <;> exact ⟨rfl, rfl, rfl, rfl⟩
  | _ => exact ⟨rfl, rfl, rfl, rfl⟩

theorem writeReg_samePalette {s t : State} (hpal : s.palComplete = true) {r : Reg} {v : Word}
    (hc : r = .ctrl → v.getLsbD 0 = false) (h : writeReg r v s = .next t) : SamePalette s t := by
  rcases writeReg_cases h with ⟨hr, hv, _⟩ | ⟨_, _, rfl⟩ | ⟨_, _, rfl⟩ | ⟨_, _, _, _, rfl⟩ | ⟨_, _, _, _, hexec⟩
  · exact absurd (hc hr) (by simp [hv])
  · exact writePlain_samePalette hpal hc
  · exact ⟨rfl, rfl, rfl, rfl⟩
  · exact ⟨rfl, rfl, rfl, rfl⟩
  · exact exec_samePalette hexec

/-- R114: once the palette is complete, no step but a reset moves it. -/
theorem step_samePalette {s t : State} (hpal : s.palComplete = true) (h : step s = .next t) (hr : ¬ resetsNow s) :
    SamePalette s t := by
  cases step_cases h with
  | same hs => exact hs.samePalette
  | engine p s0 _ _ hs ht => exact hs.samePalette.trans (exec_samePalette ht)
  | reset s0 hreset => exact absurd hreset hr
  | read r s0 hs ht =>
    obtain ⟨e, he, _⟩ := readReg_state r s0
    have hread : SamePalette s0 (readReg r s0).2 := by rw [he]; exact ⟨rfl, rfl, rfl, rfl⟩
    exact (hs.samePalette.trans hread).trans ht.samePalette
  | write r v s0 _ hs ht hc =>
    have hs0 := hs.samePalette
    exact hs0.trans (writeReg_samePalette (hs0.complete.trans hpal) hc ht)
  | memory addr bytes _ _ ht =>
    obtain ⟨hp, hm, hc, hd⟩ := ht.samePalette
    exact ⟨hp, hm, hc, hd⟩

/-- Settles O35: the write only records its response and PAL_LOCKED, and no other access or command reaches the palette. -/
theorem paletteWriteIsDroppedWhenComplete : Obligations.PaletteWriteIsDroppedWhenComplete := by
  intro s hpal
  refine ⟨fun k v => ?_, fun t ht hr => ?_⟩
  · refine (step_writePlain (r := .pal k) (by simp) v s).trans ?_
    rw [writePlain, writePalette_complete (by simpa using hpal)]
    rfl
  · have hsame := step_samePalette hpal ht hr
    exact ⟨hsame.complete.trans hpal, hsame.pal⟩

end Sys2Proof.Machine

namespace Sys2Proof.Machine

/-! Where MAP's words lie (R116, R117): the pixel (x, y) has the word of index y*STRIDE + x, and no row reaches the next. -/

theorem strideOk_iff (p : Params) (stride : BitVec 16) : strideOk p stride = true ↔ p.w ≤ stride.toNat :=
  decide_eq_true_iff

/-- R117: distinct pixels have distinct addresses, because STRIDE ≥ W. -/
theorem pixelAddr_inj {w : Nat} {base : Word} {stride : BitVec 16} (hs : w ≤ stride.toNat) {x x' y y' : Nat}
    (hx : x < w) (hx' : x' < w) : pixelAddr base stride x y = pixelAddr base stride x' y' ↔ x = x' ∧ y = y' := by
  rw [← canvasIndex_inj (hx.trans_le hs) (hx'.trans_le hs)]
  unfold pixelAddr canvasIndex
  omega

/-- R116, third check: a pixel's word ends within the 32-bit space. -/
theorem pixelAddr_fits {p : Params} {base : Word} {stride : BitVec 16} (hr : rangeOk p base stride = true) {x y : Nat}
    (hx : x < p.w) (hy : y < p.h) : pixelAddr base stride x y + 4 ≤ 2 ^ 32 := by
  simp only [rangeOk, decide_eq_true_eq] at hr
  have hrow : y * stride.toNat ≤ (p.h - 1) * stride.toNat := Nat.mul_le_mul_right _ (by omega)
  unfold pixelAddr
  omega

/-- R116, second check: every pixel's word is aligned. -/
theorem pixelAddr_aligned {base : Word} (hb : baseAligned base = true) (stride : BitVec 16) (x y : Nat) :
    pixelAddr base stride x y % 4 = 0 := by
  rw [baseAligned_iff] at hb
  unfold pixelAddr
  omega

/-- Settles O44: each clause is one of the three checks of R116. -/
theorem pixelAddressesAreDistinctAndAligned : Obligations.PixelAddressesAreDistinctAndAligned := by
  intro p base stride hstride hbase hrange
  refine ⟨fun x y hx hy => ⟨rfl, pixelAddr_aligned hbase stride x y, ?_⟩, fun x y x' y' hx _ hx' _ => ?_⟩
  · have := pixelAddr_fits hrange hx hy
    omega
  · exact (pixelAddr_inj ((strideOk_iff p stride).1 hstride) hx hx').1

end Sys2Proof.Machine

namespace Sys2Proof.Machine

/-! A MAP from its first pixel on (R119 to R122): the external memory and the machine after its first `n` words. -/

/-- The pending MAP when pixel `n` is the next one it writes (R44). -/
def Pending.atPixel (p : Pending) (n : Nat) : Pending := { p with index := n }

/-- The external memory once the first `n` pixels, in row-major order, are written (R121). -/
def mappedMem (p : Pending) (s : State) : Nat → List Host.Cell
  | 0 => s.mem
  | n + 1 => writeWord (mappedMem p s n) (nextPixelAddr (p.atPixel n) s) (nextPixelColour (p.atPixel n) s)

/-- The machine `s` once its MAP `p` has written `n` pixels and is not through, with these turns and replies to come. -/
def mapping (p : Pending) (s : State) (n : Nat) (events : List Event) (replies : List BusReply) : State :=
  { s with mem := mappedMem p s n, pending := some (p.atPixel n), events := events, replies := replies }

/-- An accepted MAP is at its first pixel (R119). -/
theorem eq_mapping_zero {p : Pending} {s : State} (hp : s.pending = some p) (h0 : p.index = 0) (es : List Event)
    {rs : List BusReply} (hr : s.replies = rs) : { s with events := es } = mapping p s 0 es rs := by
  obtain ⟨i, v, b, st, n⟩ := p
  subst h0 hr
  simp [mapping, mappedMem, Pending.atPixel, hp]

/-- The write of pixel `n` with its reply (R51). -/
theorem putPixel_mapping (p : Pending) (s : State) (n : Nat) (es : List Event) (r : BusReply) (rs : List BusReply) :
    putPixel (p.atPixel n) (mapping p s n es (r :: rs)) =
      { mapping p s n es rs with mem := mappedMem p s (if landed r then n + 1 else n) } := by
  rw [apply_ite (mappedMem p s)]
  rfl

/-- R121: the engine's turn writes pixel `n`. -/
theorem step_mapping {p : Pending} (hm : p.instr = .map) (s : State) (n : Nat) (es : List Event) (rs : List BusReply) :
    step (mapping p s n (.engine :: es) rs) = .next (mapPixel (p.atPixel n) (mapping p s n es rs)) := by
  refine (step_engine (s := mapping p s n es rs) (p := p.atPixel n) rfl).trans ?_
  simp only [effectOf, Pending.atPixel, hm]

/-- An `ok` before the last pixel: MAP goes on to the next one. -/
theorem step_mapping_ok {p : Pending} (hm : p.instr = .map) {s : State} {n : Nat}
    (hn : n + 1 ≠ s.params.w * s.params.h) (es : List Event) (rs : List BusReply) :
    step (mapping p s n (.engine :: es) (.ok :: rs)) = .next (mapping p s (n + 1) es rs) := by
  rw [step_mapping hm]
  rcases mapPixel_cases (p.atPixel n) (mapping p s n es (.ok :: rs)) with ⟨_, hlast, _⟩ | ⟨_, _, h⟩ | ⟨herr, _⟩
  · exact absurd hlast hn
  · rw [h, putPixel_mapping]; rfl
  · exact absurd rfl herr

/-- R121: the `ok` of the last pixel completes MAP. -/
theorem step_mapping_last {p : Pending} (hm : p.instr = .map) {s : State} {n : Nat}
    (hn : n + 1 = s.params.w * s.params.h) (es : List Event) (rs : List BusReply) :
    step (mapping p s n (.engine :: es) (.ok :: rs)) = .next (complete .ok (mapping p s (n + 1) es rs)) := by
  rw [step_mapping hm]
  rcases mapPixel_cases (p.atPixel n) (mapping p s n es (.ok :: rs)) with ⟨_, _, h⟩ | ⟨_, hmore, _⟩ | ⟨herr, _⟩
  · rw [h, putPixel_mapping]; rfl
  · exact absurd hn hmore
  · exact absurd rfl herr

/-- R120: an `err` ends MAP, with pixel `n` written or not. -/
theorem step_mapping_err {p : Pending} (hm : p.instr = .map) (s : State) (n : Nat) (b : Bool) (es : List Event)
    (rs : List BusReply) :
    step (mapping p s n (.engine :: es) (.err b :: rs)) =
      .next (complete .busError (mapping p s (if b then n + 1 else n) es rs)) := by
  rw [step_mapping hm]
  rcases mapPixel_cases (p.atPixel n) (mapping p s n es (.err b :: rs)) with ⟨hok, _, _⟩ | ⟨hok, _, _⟩ | ⟨_, h⟩
  · exact absurd hok (by simp [nextReply, mapping])
  · exact absurd hok (by simp [nextReply, mapping])
  · rw [h, putPixel_mapping]; rfl

/-- R119: `k` engine turns answered `ok` write `k` more pixels, as long as another is left. -/
theorem runSteps_mapping {p : Pending} (hm : p.instr = .map) (s : State) (es : List Event) (rs : List BusReply) (k : Nat) :
    ∀ n, n + k < s.params.w * s.params.h →
      runSteps (k + 1) (mapping p s n (List.replicate k .engine ++ es) (List.replicate k .ok ++ rs)) =
        step (mapping p s (n + k) es rs) := by
  induction k with
  | zero => intro n _; exact runSteps_one _
  | succ k ih =>
    intro n hn
    have hstep := step_mapping_ok hm (s := s) (n := n) (by omega) (List.replicate k .engine ++ es)
      (List.replicate k .ok ++ rs)
    simp only [List.replicate_succ, List.cons_append]
    rw [runSteps_succ _ hstep, ih (n + 1) (by omega), Nat.add_right_comm n 1 k, Nat.add_assoc]

/-! What the external memory reads after a MAP's first pixels. -/

/-- What a pending MAP's addresses rely on: its stride check (R116), and a pixel to write (R44), so a canvas that is not empty. -/
theorem stride_and_size_of_pendingReady {p : Pending} {s : State} (hm : p.instr = .map) (hr : pendingReady p s = true) :
    s.params.w ≤ p.stride.toNat ∧ 0 < s.params.w ∧ 0 < s.params.w * s.params.h := by
  simp only [pendingReady, hm, Bool.and_eq_true, strideOk_iff, decide_eq_true_eq] at hr
  obtain ⟨_, ⟨⟨⟨_, hstride⟩, _⟩, _⟩, hindex⟩ := hr
  have hsize : 0 < s.params.w * s.params.h := Nat.zero_lt_of_lt hindex
  exact ⟨hstride, Nat.pos_of_mul_pos_right hsize, hsize⟩

theorem canvasIndex_mod {w x : Nat} (hx : x < w) (y : Nat) : canvasIndex w x y % w = x := by
  rw [canvasIndex, Nat.mul_add_mod_of_lt hx]

theorem canvasIndex_div {w x : Nat} (hx : x < w) (y : Nat) : canvasIndex w x y / w = y := by
  rw [canvasIndex, Nat.add_comm, Nat.add_mul_div_right _ _ (Nat.zero_lt_of_lt hx), Nat.div_eq_of_lt hx, Nat.zero_add]

/-- R121: the pixel whose linear index is that of (x, y) is (x, y). -/
theorem nextPixelAddr_canvasIndex (p : Pending) {s : State} {x : Nat} (hx : x < s.params.w) (y : Nat) :
    nextPixelAddr (p.atPixel (canvasIndex s.params.w x y)) s = pixelAddr p.base p.stride x y := by
  simp only [nextPixelAddr, Pending.atPixel, canvasIndex_mod hx, canvasIndex_div hx]

theorem nextPixelColour_canvasIndex (p : Pending) {s : State} {x : Nat} (hx : x < s.params.w) (y : Nat) :
    nextPixelColour (p.atPixel (canvasIndex s.params.w x y)) s = pixelColour s x y := by
  simp only [nextPixelColour, Pending.atPixel, canvasIndex_mod hx, canvasIndex_div hx]

/-- R117: no byte of a pixel's word lies in another pixel's word. -/
theorem pixelByte_outside_of_ne {p : Pending} {s : State} (hw : 0 < s.params.w) (hs : s.params.w ≤ p.stride.toNat)
    {m n b : Nat} (hne : n ≠ m) (hb : b < 4) :
    nextPixelAddr (p.atPixel n) s + b < nextPixelAddr (p.atPixel m) s ∨
      nextPixelAddr (p.atPixel m) s + 4 ≤ nextPixelAddr (p.atPixel n) s + b := by
  have haddr : nextPixelAddr (p.atPixel n) s ≠ nextPixelAddr (p.atPixel m) s := by
    intro h
    obtain ⟨hx, hy⟩ := (pixelAddr_inj hs (Nat.mod_lt n hw) (Nat.mod_lt m hw)).1 h
    exact hne (Nat.ext_div_mod hy hx)
  simp only [nextPixelAddr, pixelAddr, Pending.atPixel] at haddr ⊢
  omega

/-- R122: a byte outside the first `k` pixels' words reads as before. -/
theorem readByte_mappedMem_outside (p : Pending) (s : State) (a k : Nat)
    (h : ∀ n, n < k → a < nextPixelAddr (p.atPixel n) s ∨ nextPixelAddr (p.atPixel n) s + 4 ≤ a) :
    readByte (mappedMem p s k) a = readByte s.mem a := by
  induction k with
  | zero => rfl
  | succ k ih =>
    rw [mappedMem, readByte_writeWord_outside _ _ _ _ (h k (Nat.lt_succ_self k))]
    exact ih fun n hn => h n (Nat.lt_succ_of_lt hn)

/-- R121: the words of the first `k` pixels hold their colours, since no later pixel touches an earlier one's word. -/
theorem readByte_mappedMem_inside {p : Pending} {s : State} (hw : 0 < s.params.w) (hs : s.params.w ≤ p.stride.toNat)
    {n b : Nat} (hb : b < 4) (k : Nat) (hn : n < k) :
    readByte (mappedMem p s k) (nextPixelAddr (p.atPixel n) s + b) =
      some ((nextPixelColour (p.atPixel n) s).extractLsb' (8 * b) 8) := by
  induction k with
  | zero => exact absurd hn (Nat.not_lt_zero n)
  | succ k ih =>
    by_cases hlast : n = k
    · rw [hlast, mappedMem, readByte_writeWord_inside _ _ _ _ hb]
    · rw [mappedMem, readByte_writeWord_outside _ _ _ _ (pixelByte_outside_of_ne hw hs hlast hb)]
      exact ih (by omega)

/-- Settles O50: W*H - 1 turns answered `ok` leave the last pixel, whose `ok` completes MAP; its memory is `mappedMem` at W*H. -/
theorem mapWritesExactlyItsPixels : Obligations.MapWritesExactlyItsPixels := by
  intro s p rs hinv hp hm h0 hreplies
  obtain ⟨hstride, hw, hsize⟩ := stride_and_size_of_pendingReady hm (hinv.pending p hp)
  obtain ⟨last, hlast⟩ : ∃ n, s.params.w * s.params.h = n + 1 := Nat.exists_eq_add_one.2 hsize
  have hrun : runSteps (last + 1) { s with events := List.replicate (last + 1) .engine } =
      .next (complete .ok (mapping p s (last + 1) [] rs)) := by
    rw [hlast, List.replicate_succ', List.append_assoc] at hreplies
    rw [eq_mapping_zero hp h0 _ hreplies, List.replicate_succ', runSteps_mapping hm s _ _ last 0 (by omega), Nat.zero_add]
    exact step_mapping_last hm hlast.symm [] rs
  rw [hlast]
  refine ⟨_, hrun, fun x y k hx hy hk => ?_, fun a ha => ?_, rfl⟩
  · have hpixel : canvasIndex s.params.w x y < last + 1 := hlast ▸ canvasIndex_lt hx hy
    rw [← nextPixelAddr_canvasIndex p hx, ← nextPixelColour_canvasIndex p hx]
    exact readByte_mappedMem_inside hw hstride hk _ hpixel
  · refine readByte_mappedMem_outside p s a (last + 1) fun n hn => ha _ _ (Nat.mod_lt n hw) ?_
    exact Nat.div_lt_of_lt_mul (hlast ▸ hn)

/-- Settles O51: `k` turns answered `ok` leave pixel `k`, whose `err` ends MAP with the memory `mappedMem` at `k + 1` or at
`k`, as the reply says. -/
theorem abortedMapWritesAPrefix : Obligations.AbortedMapWritesAPrefix := by
  intro s p k landed rs hinv hp hm h0 hk hreplies
  obtain ⟨hstride, hw, _⟩ := stride_and_size_of_pendingReady hm (hinv.pending p hp)
  have hrun : runSteps (k + 1) { s with events := List.replicate (k + 1) .engine } =
      .next (complete .busError (mapping p s (if landed then k + 1 else k) [] rs)) := by
    rw [eq_mapping_zero hp h0 _ hreplies, List.replicate_succ', runSteps_mapping hm s _ _ k 0 (by omega), Nat.zero_add]
    exact step_mapping_err hm s k landed [] rs
  have hcount : k ≤ (if landed then k + 1 else k) ∧ (if landed then k + 1 else k) ≤ k + 1 := by split <;> omega
  refine ⟨rfl, _, hrun, fun n b hn hb => ?_, fun b hb => ?_, fun a ha => ?_, rfl⟩
  · exact readByte_mappedMem_inside hw hstride hb _ (hn.trans_le hcount.1)
  · cases landed with
    | true => exact readByte_mappedMem_inside hw hstride hb (k + 1) (Nat.lt_succ_self k)
    | false =>
      refine readByte_mappedMem_outside p s _ k fun n hn => ?_
      exact pixelByte_outside_of_ne hw hstride (Nat.ne_of_gt hn) hb
  · exact readByte_mappedMem_outside p s a _ fun n hn => ha n (Nat.le_of_lt_succ (hn.trans_le hcount.2))

end Sys2Proof.Machine

namespace Sys2Proof.Machine

/-! The acceptance of a command (R142): the checks of R86 all pass exactly when the MBSA holds what the command needs. -/

theorem checkClear_eq_ok_iff (s : State) : checkClear s = .ok ↔ s.palComplete = true := by
  simp [checkClear]

theorem checkBuildLut_eq_ok_iff (d : Nat) (s : State) :
    checkBuildLut d s = .ok ↔
      s.lutValid = false ∧ 1 ≤ d ∧ d ≤ s.params.dmax ∧ d ≤ s.params.w ∧ d ≤ s.params.h := by
  simp [checkBuildLut_eq, ite_eq_iff]

theorem checkSplat_eq_ok_iff (x y : Nat) (s : State) :
    checkSplat x y s = .ok ↔
      s.palComplete = true ∧ s.canvasInit = true ∧ s.lutValid = true ∧
        x + s.lutDiam.toNat ≤ s.params.w ∧ y + s.lutDiam.toNat ≤ s.params.h := by
  simp [checkSplat_eq, ite_eq_iff]

theorem checkAddsat_eq_ok_iff (x y : Nat) (s : State) :
    checkAddsat x y s = .ok ↔
      s.palComplete = true ∧ s.canvasInit = true ∧ x < s.params.w ∧ y < s.params.h := by
  simp [checkAddsat_eq, ite_eq_iff]

theorem checkMap_eq_ok_iff (s : State) :
    checkMap s = .ok ↔
      s.palComplete = true ∧ s.canvasInit = true ∧ s.params.w ≤ s.outStride.toNat ∧ s.outBase.toNat % 4 = 0 ∧
        s.outBase.toNat + 4 * ((s.params.h - 1) * s.outStride.toNat + s.params.w) ≤ 2 ^ 32 := by
  simp [checkMap_eq, ite_eq_iff]

/-- R87, R88: an issue accepts when its checks pass, and otherwise rejects with the code of one that fails. -/
theorem exec_idle_of_check_iff {s : State} (hp : s.pending = none) {i : Instr} {ready : Prop}
    (h : checkOf i s = .ok ↔ ready) :
    (ready → exec i s = .next (accept i s)) ∧
      (¬ ready → ∃ c : ErrCode, c ≠ .ok ∧ exec i s = .next (reject c i.opcode s)) := by
  rw [exec_idle hp, ← h]
  rcases issue_cases i (checkOf i s) s with ⟨hok, he⟩ | ⟨hbad, he⟩ <;> rw [he]
  · exact ⟨fun _ => rfl, absurd hok⟩
  · exact ⟨fun hok => absurd hok hbad, fun _ => ⟨_, hbad, rfl⟩⟩

/-- Settles O12: command by command, the checks pass exactly when the needs of R142's table are met. -/
theorem commandIsAcceptedExactlyWhenReady : Obligations.CommandIsAcceptedExactlyWhenReady := by
  intro s i hp
  cases i with
  | nop => exact exec_idle_of_check_iff hp (iff_true_intro rfl)
  | clear => exact exec_idle_of_check_iff hp (checkClear_eq_ok_iff s)
  | buildLut d => exact exec_idle_of_check_iff hp (checkBuildLut_eq_ok_iff d s)
  | splat x y => exact exec_idle_of_check_iff hp (checkSplat_eq_ok_iff x y s)
  | addsat x y => exact exec_idle_of_check_iff hp (checkAddsat_eq_ok_iff x y s)
  | map => exact exec_idle_of_check_iff hp (checkMap_eq_ok_iff s)

end Sys2Proof.Machine

namespace Sys2Proof.Machine

/-! The two resets (R139, R140): one effect, the memory's one word in doubt, and what the registers then read. -/

/-- R139: a turn of the reset input. -/
theorem step_reset (s : State) : step (before .reset s) = .next (resetMachine s) := step_before .reset s

/-- R140: a turn that writes CTRL with bit 0 = 1 is the reset, with the normal response recorded. -/
theorem step_softReset {v : Word} (hv : v.getLsbD 0 = true) (s : State) :
    step (before (.write 32 0x014 v) s) = .next (resetMachine (respond .done s)) :=
  (step_writePlain (r := .ctrl) (by decide) v s).trans (by rw [writePlain, writeCtrl, if_pos hv])

/-- R140, I10: the word that a stopped MAP has outstanding is written, or the external memory stays. -/
theorem resetMachine_mem_of_map {s : State} {p : Pending} (hp : s.pending = some p) (hm : p.instr = .map) :
    (resetMachine s).mem = s.mem ∨
      (resetMachine s).mem = writeWord s.mem (nextPixelAddr p s) (nextPixelColour p s) := by
  have hstop : abandonPending s = putPixel p s := by simp [abandonPending, hp, hm]
  rw [resetMachine_mem, hstop, putPixel_mem]
  exact (ite_eq_or_eq _ _ _).symm

/-- Settles O38: the write is the reset of the state that holds its response, and a reset moves the memory by MAP's next word at
most. -/
theorem softResetIsReset : Obligations.SoftResetIsReset := by
  intro s v hv
  obtain ⟨-, -, -, hmem⟩ := resetMachine_frame (respond .done s)
  refine ⟨(step_softReset hv s).trans (step_reset _).symm, _, step_softReset hv s, rfl, rfl,
    resetMachine_response _, fun p hp hm => ?_, hmem⟩
  exact resetMachine_mem_of_map (s := respond .done s) hp hm

/-- R107: with no command pending and the canvas not initialised, CANVAS_DATA reads 0. -/
theorem readCanvasData_of_not_init {s : State} (hp : s.pending = none) (hc : s.canvasInit = false) :
    (readCanvasData s).1 = 0 := by
  rw [readCanvasData, if_neg (by simp [State.busy, hp]), if_pos hc]
  split <;> rfl

/-- The registers that show a build parameter (R23). -/
def paramRegs : List Reg := [.canvasW, .canvasH, .lutDmax]

/-- R139: after a reset every other register reads what it reads in the reset state. -/
theorem readReg_resetMachine {r : Reg} (hr : r ∉ paramRegs) (s : State) :
    (readReg r (resetMachine s)).1 = (readReg r State.reset).1 := by
  cases r
  case canvasW | canvasH | lutDmax => exact absurd hr (by decide)
  case canvasData => exact (readCanvasData_of_not_init rfl rfl).trans (readCanvasData_of_not_init rfl rfl).symm
  all_goals rfl

/-- R139's table of the values that the registers read after a reset, without the data ports and PAL[k]. -/
def resetValues : List (Reg × Word) :=
  [(.id, 0x4D425341), (.version, 1), (.ctrl, 0), (.status, 0), (.err, 0), (.int, 0), (.cmdArg, 0), (.outBase, 0),
    (.outStride, 0), (.lutDiam, 0), (.canvasPtr, 0), (.lutPtr, 0), (.palCount, 0)]

theorem readReg_reset_of_mem : ∀ e ∈ resetValues, e.1 ∉ paramRegs ∧ (readReg e.1 State.reset).1 = e.2 := by decide

/-- R23: within the legal ranges of R6 the three parameter registers hold the build parameters exactly. -/
theorem toNat_readReg_params {s : State} (h : s.params.legal = true) :
    (readReg .canvasW s).1.toNat = s.params.w ∧ (readReg .canvasH s).1.toNat = s.params.h ∧
      (readReg .lutDmax s).1.toNat = s.params.dmax := by
  simp only [Params.legal, Bool.and_eq_true, decide_eq_true_eq] at h
  simp only [readReg, BitVec.toNat_setWidth, BitVec.toNat_ofNat]
  omega

/-- R115, R139: no palette entry counts as written after a reset. -/
theorem readReg_pal_reset (k : BitVec 8) : (readReg (.pal k) State.reset).1 = 0 := by
  simp [readReg, State.reset]

/-- Settles O37: the table's registers read as in `State.reset`, the parameter registers keep the parameters, and the frame of a
reset gives the rest. -/
theorem resetGivesTheResetValues : Obligations.ResetGivesTheResetValues := by
  intro s hlegal
  obtain ⟨hparams, -, -, hmem⟩ := resetMachine_frame s
  obtain ⟨hw, hh, hd⟩ := toNat_readReg_params (s := resetMachine s) (by rw [hparams, hlegal])
  rw [hparams] at hw hh hd
  refine ⟨_, step_reset s, fun r v hrv => ?_, hw, hh, hd, fun k => ?_, rfl, rfl, rfl, hmem, hparams⟩
  · obtain ⟨hr, hv⟩ := readReg_reset_of_mem (r, v) hrv
    exact (readReg_resetMachine hr s).trans hv
  · exact (readReg_resetMachine (by simp [paramRegs]) s).trans (readReg_pal_reset k)

end Sys2Proof.Machine

namespace Sys2Proof

/-! The two directions of the encoding (R68 to R72, R76): the fields of an encoded command, and the word of decoded ones. -/

/-- A field of a word is 0 exactly when the word's number says so. -/
theorem extractLsb'_eq_zero_iff {n : Nat} (w : BitVec n) (start len : Nat) :
    w.extractLsb' start len = 0 ↔ w.toNat / 2 ^ start % 2 ^ len = 0 := by
  rw [← BitVec.toNat_inj]
  simp [BitVec.extractLsb'_toNat, Nat.shiftRight_eq_div_pow]

/-- R74: the reserved bits of format N are those below OP. -/
theorem reservedN_iff (w : Word) : w.extractLsb' 0 28 = 0 ↔ w.toNat = (opField w).toNat * 2 ^ 28 := by
  rw [extractLsb'_eq_zero_iff, toNat_opField]
  omega

/-- R74: the reserved bits of format D are those between OP and DIAM. -/
theorem reservedD_iff (w : Word) :
    w.extractLsb' 12 16 = 0 ↔ w.toNat = (opField w).toNat * 2 ^ 28 + lowField w := by
  rw [extractLsb'_eq_zero_iff, toNat_opField, lowField_eq]
  omega

/-- R74: the reserved bits of format P are those between OP and Y. -/
theorem reservedP_iff (w : Word) :
    w.extractLsb' 24 4 = 0 ↔ w.toNat = (opField w).toNat * 2 ^ 28 + midField w * 2 ^ 12 + lowField w := by
  rw [extractLsb'_eq_zero_iff, toNat_opField, lowField_eq, midField_eq]
  omega

theorem decode_formatD {d : Nat} (hd : d < 2 ^ 12) : decode (formatD 2 d) = .ok (.buildLut d) := by
  have hop : (opField (formatD 2 d)).toNat = 2 := congrArg BitVec.toNat (opField_encode (.buildLut d))
  have hlow : lowField (formatD 2 d) = d := by rw [lowField_eq, toNat_formatD]; omega
  have hres : (formatD 2 d).extractLsb' 12 16 = 0 := by
    rw [reservedD_iff, hop, hlow, toNat_formatD, Nat.mod_eq_of_lt hd]; rfl
  rw [decode, hop]
  simp only [hres, hlow, if_true]

/-- The fields of a word of format P, and that its reserved bits are 0. -/
theorem fields_formatP (op : BitVec 4) {x y : Nat} (hx : x < 2 ^ 12) (hy : y < 2 ^ 12) :
    opField (formatP op x y) = op ∧ lowField (formatP op x y) = x ∧ midField (formatP op x y) = y ∧
      (formatP op x y).extractLsb' 24 4 = 0 := by
  have hn := toNat_formatP op x y
  have hop : (opField (formatP op x y)).toNat = op.toNat := by rw [toNat_opField, hn]; omega
  have hlow : lowField (formatP op x y) = x := by rw [lowField_eq, hn]; omega
  have hmid : midField (formatP op x y) = y := by rw [midField_eq, hn]; omega
  refine ⟨BitVec.eq_of_toNat_eq hop, hlow, hmid, ?_⟩
  rw [reservedP_iff, hop, hlow, hmid, hn, Nat.mod_eq_of_lt hx, Nat.mod_eq_of_lt hy]

/-- Settles O1: the commands without operands have fixed words; for the others the fields hold the operands, which fit, and the
reserved bits are 0. -/
theorem decodeOfEncodeIsTheCommand : Obligations.DecodeOfEncodeIsTheCommand := by
  intro i hwf
  cases i with
  | nop | clear | map => decide
  | buildLut d => exact decode_formatD (by simpa [Instr.wf] using hwf)
  | splat x y | addsat x y =>
    simp only [Instr.wf, Bool.and_eq_true, decide_eq_true_eq] at hwf
    obtain ⟨hop, hlow, hmid, hres⟩ := fields_formatP _ hwf.1 hwf.2
    rw [encode, decode, hop, hlow, hmid]
    exact if_pos hres

theorem lowField_lt (w : Word) : lowField w < 2 ^ 12 := (w.extractLsb' 0 12).isLt

theorem midField_lt (w : Word) : midField w < 2 ^ 12 := (w.extractLsb' 12 12).isLt

theorem formatN_opField {w : Word} (h : w.extractLsb' 0 28 = 0) : formatN (opField w) = w :=
  BitVec.eq_of_toNat_eq (by rw [toNat_formatN, ← (reservedN_iff w).1 h])

theorem formatD_opField {w : Word} (h : w.extractLsb' 12 16 = 0) : formatD (opField w) (lowField w) = w :=
  BitVec.eq_of_toNat_eq (by rw [toNat_formatD, Nat.mod_eq_of_lt (lowField_lt w), ← (reservedD_iff w).1 h])

theorem formatP_opField {w : Word} (h : w.extractLsb' 24 4 = 0) :
    formatP (opField w) (lowField w) (midField w) = w :=
  BitVec.eq_of_toNat_eq (by
    rw [toNat_formatP, Nat.mod_eq_of_lt (lowField_lt w), Nat.mod_eq_of_lt (midField_lt w), ← (reservedP_iff w).1 h])

/-- Settles O2: a word whose reserved bits are 0 is its format with the fields read from it, and the fields are in range. -/
theorem decodedWordIsItsEncoding : Obligations.DecodedWordIsItsEncoding := by
  intro w i h
  have hop := opcode_of_decode h
  have hlow := lowField_lt w
  have hmid := midField_lt w
  unfold decode at h
  split at h
  case h_7 => cases h
  all_goals
    split at h
    case isFalse => cases h
    rename_i hres
    cases h
  case h_1 | h_2 | h_6 => exact ⟨rfl, (congrArg formatN hop).trans (formatN_opField hres)⟩
  case h_3 =>
    exact ⟨decide_eq_true hlow, (congrArg (formatD · (lowField w)) hop).trans (formatD_opField hres)⟩
  case h_4 | h_5 =>
    exact ⟨Bool.and_eq_true_iff.2 ⟨decide_eq_true hlow, decide_eq_true hmid⟩,
      (congrArg (formatP · (lowField w) (midField w)) hop).trans (formatP_opField hres)⟩

/-- Settles O5: each word is evaluated. -/
theorem sampleWordsDecode : Obligations.SampleWordsDecode := by
  unfold Obligations.SampleWordsDecode
  decide

end Sys2Proof

namespace Sys2Proof.Machine

/-! The register map (R20, R80): which accesses reach a register, and which one. -/

theorem offset_page_iff (offset : BitVec 12) :
    offset.extractLsb' 10 2 = 1 ↔ 0x400 ≤ offset.toNat ∧ offset.toNat < 0x800 := by
  have := offset.isLt
  rw [← BitVec.toNat_inj]
  simp [BitVec.extractLsb'_toNat, Nat.shiftRight_eq_div_pow]
  omega

theorem offset_aligned_iff (offset : BitVec 12) : offset.extractLsb' 0 2 = 0 ↔ offset.toNat % 4 = 0 := by
  rw [extractLsb'_eq_zero_iff]
  simp

/-- R20: PAL[k] stands at 0x400 + 4*k. -/
theorem toNat_offset_pal (k : BitVec 8) : (Reg.pal k).offset.toNat = 0x400 + 4 * k.toNat := by
  have h := toNat_append_add ((1 : BitVec 2) ++ k) (0 : BitVec 2)
  have h' := toNat_append_add (1 : BitVec 2) k
  have hdef : (Reg.pal k).offset.toNat = ((1 : BitVec 2) ++ k ++ (0 : BitVec 2)).toNat := rfl
  have hone : (1 : BitVec 2).toNat = 1 := rfl
  have hzero : (0 : BitVec 2).toNat = 0 := rfl
  omega

/-- R80: an access gets no register exactly when its width, its alignment or its offset is wrong. -/
theorem regAt_eq_none_iff (width : Nat) (offset : BitVec 12) :
    regAt width offset = none ↔
      width ≠ 32 ∨ offset.toNat % 4 ≠ 0 ∨ (0x04C ≤ offset.toNat ∧ offset.toNat ≤ 0x3FF) ∨ 0x800 ≤ offset.toNat := by
  simp only [regAt, ne_eq, offset_aligned_iff, offset_page_iff]
  by_cases hw : width = 32
  · by_cases ha : offset.toNat % 4 = 0
    · by_cases hp : 0x400 ≤ offset.toNat ∧ offset.toNat < 0x800
      · exact iff_of_false (by simp [hw, ha, hp]) (by omega)
      · simp only [hw, ha, hp, not_true_eq_false, if_false, false_or]
        split
        case h_20 =>
          simp only [imp_false] at *
          exact iff_of_true trivial (by omega)
        all_goals exact iff_of_false (by simp) (by omega)
    · simp [ha]
  · simp [hw]

/-- R20: an access that reaches a register is a 32-bit access at that register's offset. -/
theorem eq_offset_of_regAt {width : Nat} {offset : BitVec 12} {r : Reg} (h : regAt width offset = some r) :
    width = 32 ∧ offset = r.offset := by
  simp only [regAt, ne_eq, offset_aligned_iff, offset_page_iff] at h
  by_cases hw : width = 32
  case neg => simp [hw] at h
  by_cases ha : offset.toNat % 4 = 0
  case neg => simp [hw, ha] at h
  refine ⟨hw, BitVec.eq_of_toNat_eq ?_⟩
  by_cases hp : 0x400 ≤ offset.toNat ∧ offset.toNat < 0x800
  case pos =>
    simp only [hw, ha, hp, not_true_eq_false, if_false, and_self, if_true, Option.some.injEq] at h
    have hk : (offset.extractLsb' 2 8).toNat = offset.toNat / 4 % 256 := by
      simp [BitVec.extractLsb'_toNat, Nat.shiftRight_eq_div_pow]
    rw [← h, toNat_offset_pal, hk]
    omega
  simp only [hw, ha, hp, not_true_eq_false, if_false] at h
  split at h
  case h_20 => cases h
  all_goals
    cases h
    assumption

/-- Settles O6: the offsets are those of the map, and `regAt` and `Reg.offset` undo each other. -/
theorem registerMapIsOneToOne : Obligations.RegisterMapIsOneToOne := by
  refine ⟨fun o r h => ?_, toNat_offset_pal, regAt_offset, fun _ _ _ => eq_offset_of_regAt⟩
  have hoff : r.offset = o := by
    simp only [List.mem_cons, List.not_mem_nil, or_false, Prod.mk.injEq] at h
    rcases h with h | h | h | h | h | h | h | h | h | h | h | h | h | h | h | h | h | h | h <;> rw [h.1, h.2] <;> rfl
  exact ⟨hoff, hoff ▸ regAt_offset r⟩

end Sys2Proof.Machine

namespace Sys2Proof.Machine

/-! The engine's step, an equation per command (R94, R100, R105, R106, R109, R121), and `exec` read backwards. -/

section
variable {p : Pending} (s : State)

theorem effectOf_nop (hi : p.instr = .nop) : effectOf p s = complete .ok s := by
  simp only [effectOf, hi]

theorem effectOf_clear (hi : p.instr = .clear) :
    effectOf p s = complete .ok { s with canvas := clearedCanvas, canvasInit := true } := by
  simp only [effectOf, hi]

theorem effectOf_buildLut {d : Nat} (hi : p.instr = .buildLut d) :
    effectOf p s = complete .ok { s with lut := builtLut d, lutDiam := BitVec.ofNat 12 d, lutValid := true } := by
  simp only [effectOf, hi]

theorem effectOf_splat {x y : Nat} (hi : p.instr = .splat x y) :
    effectOf p s = complete .ok { s with canvas := splatted s.params.w s.lutDiam.toNat x y s.lut s.canvas } := by
  simp only [effectOf, hi]

theorem effectOf_addsat {x y : Nat} (hi : p.instr = .addsat x y) :
    effectOf p s = complete .ok { s with canvas := addsatCell s.params.w s.canvas x y p.value } := by
  simp only [effectOf, hi]

theorem effectOf_map (hi : p.instr = .map) : effectOf p s = mapPixel p s := by
  simp only [effectOf, hi]

end

/-- With no command pending, what `exec` answers is the issue. -/
theorem eq_issue_of_exec {s t : State} {i : Instr} (hp : s.pending = none) (h : exec i s = .next t) :
    issue i (checkOf i s) s = t := by
  simpa [exec_idle hp] using h

/-- With the command pending, what `exec` answers is the engine's step. -/
theorem eq_effectOf_of_exec {s t : State} {p : Pending} (hp : s.pending = some p) (h : exec p.instr s = .next t) :
    effectOf p s = t := by
  simpa [exec_running hp] using h

theorem SameMachine.pending_eq {s t : State} (h : SameMachine s t) : t.pending = s.pending := by
  obtain ⟨_, _, _, _, _, rfl⟩ := h
  rfl

/-! What a pending command may rely on (R92), command by command, and which changes leave it ready. -/

theorem pendingReady_addsat {p : Pending} {s : State} {x y : Nat} (hi : p.instr = .addsat x y)
    (hr : pendingReady p s = true) : s.canvasInit = true ∧ x < s.params.w ∧ y < s.params.h := by
  simp only [pendingReady, hi, Bool.and_eq_true, cellIn_iff] at hr
  obtain ⟨_, ⟨_, hinit⟩, hcell⟩ := hr
  exact ⟨hinit, hcell⟩

theorem pendingReady_splat {p : Pending} {s : State} {x y : Nat} (hi : p.instr = .splat x y)
    (hr : pendingReady p s = true) :
    s.canvasInit = true ∧ s.lutValid = true ∧ x + s.lutDiam.toNat ≤ s.params.w ∧ y + s.lutDiam.toNat ≤ s.params.h := by
  simp only [pendingReady, hi, Bool.and_eq_true, splatFits_iff] at hr
  obtain ⟨_, ⟨⟨_, hinit⟩, hvalid⟩, hfits⟩ := hr
  exact ⟨hinit, hvalid, hfits⟩

theorem pendingReady_buildLut {p : Pending} {s : State} {d : Nat} (hi : p.instr = .buildLut d)
    (hr : pendingReady p s = true) : d < 2 ^ 12 ∧ s.lutValid = false ∧ diamOk s.params d = true := by
  simp only [pendingReady, hi, Instr.wf, Bool.and_eq_true, decide_eq_true_eq, Bool.not_eq_true'] at hr
  obtain ⟨⟨⟨hwf, _⟩, _⟩, ⟨_, hinvalid⟩, hok⟩ := hr
  exact ⟨hwf, hinvalid, hok⟩

theorem pendingReady_map {p : Pending} {s : State} (hm : p.instr = .map) (hr : pendingReady p s = true) :
    s.canvasInit = true ∧ p.index < s.params.w * s.params.h := by
  simp only [pendingReady, hm, Bool.and_eq_true, decide_eq_true_eq] at hr
  obtain ⟨_, ⟨⟨⟨⟨_, hinit⟩, _⟩, _⟩, _⟩, hindex⟩ := hr
  exact ⟨hinit, hindex⟩

/-- R119: a MAP that goes on to the next pixel stays ready while pixels are left. -/
theorem pendingReady_nextPixel {p : Pending} {s : State} (hm : p.instr = .map) (hr : pendingReady p s = true)
    (hmore : p.index + 1 ≠ s.params.w * s.params.h) : pendingReady { p with index := p.index + 1 } s = true := by
  simp only [pendingReady, hm, Bool.and_eq_true, decide_eq_true_eq] at hr ⊢
  obtain ⟨hhead, hchecks, hindex⟩ := hr
  exact ⟨hhead, hchecks, by omega⟩

/-- R92: a write to the palette can only help a pending command, which needs a complete one at most. -/
theorem pendingReady_palette {p : Pending} {s : State} (hr : pendingReady p s = true) (pal : List (Nat × Word))
    (mask : BitVec 256) (count : BitVec 9) (complete : Bool) (hc : s.palComplete = true → complete = true) :
    pendingReady p { s with pal := pal, palMask := mask, palCount := count, palComplete := complete } = true := by
  obtain ⟨i, v, b, st, n⟩ := p
  cases hpal : s.palComplete with
  | true =>
    obtain rfl : complete = s.palComplete := (hc hpal).trans hpal.symm
    exact hr
  | false =>
    cases i with
    | nop | buildLut => exact hr
    | clear | splat | addsat | map => simp [pendingReady, hpal] at hr

/-- R88, R89: a well-formed command that passes its checks is ready with the copies taken at acceptance. -/
theorem pendingReady_accept {i : Instr} {s : State} (hwf : i.wf = true) (hparams : s.params.legal = true)
    (hcheck : checkOf i s = .ok) : pendingReady (capture i s) (accept i s) = true := by
  simp only [Params.legal, Bool.and_eq_true, decide_eq_true_eq] at hparams
  have hsize : 0 < s.params.w * s.params.h := Nat.mul_pos hparams.1.1.1 hparams.1.2.1
  cases i with
  | nop => rfl
  | clear =>
    simp only [checkOf, checkClear_eq_ok_iff] at hcheck
    simp [pendingReady, capture, Instr.wf, hcheck]
  | buildLut d =>
    simp only [checkOf, checkBuildLut_eq_ok_iff] at hcheck
    simp [pendingReady, capture, hwf, diamOk_iff, hcheck]
  | splat x y =>
    simp only [checkOf, checkSplat_eq_ok_iff] at hcheck
    simp [pendingReady, capture, hwf, splatFits_iff, hcheck]
  | addsat x y =>
    simp only [checkOf, checkAddsat_eq_ok_iff] at hcheck
    simp [pendingReady, capture, hwf, cellIn_iff, hcheck]
  | map =>
    simp only [checkOf, checkMap_eq_ok_iff] at hcheck
    simp [pendingReady, capture, Instr.wf, strideOk_iff, baseAligned_iff, rangeOk, -Nat.reducePow, hcheck, hsize]

/-! The invariant, kept by each kind of action. -/

/-- A machine with nothing in its memories and nothing pending has the invariant. -/
theorem Inv.of_hidden {s : State} (hparams : s.params.legal = true) (hcanvas : s.canvas = []) (hlut : s.lut = [])
    (hdiam : s.lutDiam = 0) (hvalid : s.lutValid = false) (hpal : s.pal = []) (hmask : s.palMask = 0)
    (hcount : s.palCount = 0) (hcomplete : s.palComplete = false) (hmem : Memory.wf s.mem) (hpending : s.pending = none) :
    Inv s where
  params := hparams
  canvas := by simp [hcanvas, cellsWf]
  lut := by rw [hlut, hdiam]; rfl
  lutValid := by simp [hvalid]
  lutInvalid := fun _ => hdiam
  palette := by simp [hpal]
  palMask := by simp [hpal, hmask, findKey]
  palCount := by rw [hcount, hmask, popcount_zero]; rfl
  palComplete := by rw [hcomplete, hmask, popcount_zero]; decide
  mem := hmem
  pending := by simp [hpending]

/-- Settles O45: after reset the memories are hidden and nothing is pending. -/
theorem invariantHoldsAtReset : Obligations.InvariantHoldsAtReset :=
  .of_hidden rfl rfl rfl rfl rfl rfl rfl rfl rfl (by decide) rfl

/-- The invariant speaks of none of the host's own registers, of ERR and INT, or of the response. -/
theorem Inv.withHostRegisters {s : State} (hs : Inv s) (irqEn done : Bool) (err : BitVec 6) (arg : Byte) (base : Word)
    (stride : BitVec 16) (cx cy li lj : BitVec 12) :
    Inv { s with
      irqEn := irqEn, done := done, err := err, cmdArg := arg, outBase := base, outStride := stride
      canvasX := cx, canvasY := cy, lutI := li, lutJ := lj } :=
  ⟨hs.1, hs.2, hs.3, hs.4, hs.5, hs.6, hs.7, hs.8, hs.9, hs.10, hs.11⟩

theorem Inv.setErr {s : State} (hs : Inv s) (b : BitVec 6) : Inv (s.setErr b) := hs.withHostRegisters ..

/-- R112, R113: a palette write that is taken keeps the palette, its mask, its count and PAL_COMPLETE in agreement. -/
theorem Inv.storePalette {s : State} (hs : Inv s) (hopen : s.palComplete = false) (k : BitVec 8) (v : Word) :
    Inv (storePalette k v s) where
  params := hs.params
  canvas := hs.canvas
  lut := hs.lut
  lutValid := hs.lutValid
  lutInvalid := hs.lutInvalid
  palette := by
    refine ⟨risingKeys_insertKey hs.palette.1 _ _, fun e he => ?_⟩
    rcases mem_insertKey he with rfl | he
    · exact k.isLt
    · exact hs.palette.2 e he
  palMask := by
    intro n hn
    show (markWritten s.palMask k).getLsbD n = (findKey (insertKey s.pal k.toNat v) n).isSome
    rw [getLsbD_markWritten, findKey_insertKey, hs.palMask n hn]
    by_cases hk : n = k.toNat
    · simp [hk]
    · simp [hk, Ne.symm hk]
  palCount := toNat_ofNat_popcount _
  palComplete := by
    rw [palComplete_storePalette_iff hopen]
    exact iff_of_eq (congrArg (· = 256) (toNat_ofNat_popcount _))
  mem := hs.mem
  pending := fun p hp => pendingReady_palette (hs.pending p hp) _ _ _ _ (by simp [hopen])

/-- R82: a register write that is no soft reset keeps the invariant. -/
theorem Inv.writePlain {s : State} (hs : Inv s) {r : Reg} {v : Word} (hc : r = .ctrl → v.getLsbD 0 = false) :
    Inv (writePlain r v s) := by
  cases r with
  | ctrl => simp only [Machine.writePlain, writeCtrl, hc rfl]; exact hs.withHostRegisters ..
  | int =>
    simp only [Machine.writePlain, writeInt]
    split
    · exact hs.withHostRegisters ..
    · exact hs
  | pal k =>
    by_cases hpal : s.palComplete = true
    · rw [Machine.writePlain, writePalette_complete hpal]; exact hs.setErr _
    · rw [Bool.not_eq_true] at hpal
      rw [Machine.writePlain, writePalette_incomplete hpal]; exact hs.storePalette hpal k v
  | err | cmdArg | outBase | outStride | canvasPtr | lutPtr => exact hs.withHostRegisters ..
  | id | version | canvasW | canvasH | lutDmax | status | cmd | lutDiam | canvasData | lutData | palCount => exact hs

/-- R87: a rejection, with no command pending. -/
theorem Inv.reject {s : State} (hs : Inv s) (hp : s.pending = none) (c : ErrCode) (op : BitVec 4) :
    Inv (reject c op s) :=
  hs.of_same_memories rfl rfl rfl rfl rfl rfl rfl rfl rfl hs.mem (by simp [hp])

/-- R86 to R88: the issue of a well-formed command. -/
theorem Inv.issue {s : State} (hs : Inv s) (hp : s.pending = none) {i : Instr} (hwf : i.wf = true) :
    Inv (issue i (checkOf i s) s) := by
  rcases issue_cases i (checkOf i s) s with ⟨hok, he⟩ | ⟨_, he⟩ <;> rw [he]
  · refine hs.of_same_memories rfl rfl rfl rfl rfl rfl rfl rfl rfl hs.mem fun p hcap => ?_
    obtain rfl : capture i s = p := by simpa using hcap
    exact pendingReady_accept hwf hs.params hok
  · exact hs.reject hp _ _

/-- R91: an ending, with the canvas as it was or another one in canonical form. -/
theorem Inv.complete_canvas {s : State} (hs : Inv s) (c : ErrCode) {canvas : List (Nat × Byte)} (init : Bool)
    (hcanvas : cellsWf (s.params.w * s.params.h) canvas) :
    Inv (complete c { s with canvas := canvas, canvasInit := init }) :=
  ⟨hs.1, hcanvas, hs.3, hs.4, hs.5, hs.6, hs.7, hs.8, hs.9, hs.10, by simp⟩

/-- R100: BUILD_LUT leaves the table of its diameter. -/
theorem Inv.complete_builtLut {s : State} (hs : Inv s) {d : Nat} (hd : d < 2 ^ 12) (hok : diamOk s.params d = true) :
    Inv (complete .ok { s with lut := builtLut d, lutDiam := BitVec.ofNat 12 d, lutValid := true }) := by
  have hdiam : (BitVec.ofNat 12 d).toNat = d := (BitVec.toNat_ofNat d 12).trans (Nat.mod_eq_of_lt hd)
  exact ⟨hs.1, hs.2, congrArg builtLut hdiam.symm, fun _ => by simpa [hdiam] using hok, by simp, hs.6, hs.7, hs.8, hs.9,
    hs.10, by simp⟩

/-- R49: a pending MAP's write stays within the external memory. -/
theorem Memory.wf_putPixel {s : State} (hs : Inv s) {p : Pending} (hp : s.pending = some p) (hm : p.instr = .map) :
    Memory.wf (putPixel p s).mem := by
  rw [putPixel_mem]
  split
  · exact writeWord_wf hs.mem (nextPixelAddr_fits hm (hs.pending p hp)) _
  · exact hs.mem

theorem Inv.mapPixel {s : State} (hs : Inv s) {p : Pending} (hp : s.pending = some p) (hm : p.instr = .map) :
    Inv (mapPixel p s) := by
  have hmem := Memory.wf_putPixel hs hp hm
  rw [← mapPixel_mem] at hmem
  have hpending : ∀ q, (Machine.mapPixel p s).pending = some q → pendingReady q (Machine.mapPixel p s) = true := by
    intro q hq
    rcases mapPixel_cases p s with ⟨_, _, h⟩ | ⟨_, hmore, h⟩ | ⟨_, h⟩ <;> rw [h] at hq ⊢
    · simp at hq
    · obtain rfl := Option.some.inj hq
      rw [putPixel_frame]
      exact pendingReady_nextPixel hm (hs.pending p hp) hmore
    · simp at hq
  refine hs.of_same_memories ?_ ?_ ?_ ?_ ?_ ?_ ?_ ?_ ?_ hmem hpending <;> rw [mapPixel_frame]

/-- R90: the engine's step on the pending command. -/
theorem Inv.effectOf {s : State} (hs : Inv s) {p : Pending} (hp : s.pending = some p) : Inv (effectOf p s) := by
  have hready := hs.pending p hp
  cases hi : p.instr with
  | nop => rw [effectOf_nop s hi]; exact hs.complete_canvas .ok s.canvasInit hs.canvas
  | clear => rw [effectOf_clear s hi]; exact hs.complete_canvas .ok true (by simp [clearedCanvas, cellsWf])
  | buildLut d =>
    obtain ⟨hd, _, hok⟩ := pendingReady_buildLut hi hready
    rw [effectOf_buildLut s hi]
    exact hs.complete_builtLut hd hok
  | splat x y =>
    obtain ⟨_, _, hx, hy⟩ := pendingReady_splat hi hready
    rw [effectOf_splat s hi]
    exact hs.complete_canvas .ok s.canvasInit (splatted_wf hx hy s.lut hs.canvas)
  | addsat x y =>
    obtain ⟨_, hx, hy⟩ := pendingReady_addsat hi hready
    rw [effectOf_addsat s hi]
    exact hs.complete_canvas .ok s.canvasInit (addsatCell_wf hs.canvas hx hy p.value)
  | map => rw [effectOf_map s hi]; exact hs.mapPixel hp hi

/-- R139, R140: a reset, which may let one word of a stopped MAP land. -/
theorem Inv.resetMachine {s : State} (hs : Inv s) : Inv (resetMachine s) := by
  refine .of_hidden (by simpa using hs.params) rfl rfl rfl rfl rfl rfl rfl rfl ?_ rfl
  rw [resetMachine_mem]
  rcases abandonPending_cases s with ⟨p, hp, hm, h⟩ | ⟨_, h⟩ <;> rw [h]
  · exact Memory.wf_putPixel hs hp hm
  · exact hs.mem

/-- R82, R84: a register write. -/
theorem Inv.writeReg {s t : State} (hs : Inv s) {r : Reg} {v : Word} (h : writeReg r v s = .next t) : Inv t := by
  rcases writeReg_cases h with ⟨_, _, rfl⟩ | ⟨_, hc, rfl⟩ | ⟨_, _, rfl⟩ | ⟨_, hp, _, _, rfl⟩ | ⟨_, hp, i, hd, hexec⟩
  · exact hs.resetMachine
  · exact hs.writePlain hc
  · exact hs.setErr _
  · exact hs.reject hp _ _
  · obtain rfl := eq_issue_of_exec hp hexec
    exact hs.issue hp (decodedWordIsItsEncoding v i hd).1

/-- Settles O46: what the turn finds has the invariant, and each kind of action keeps it. -/
theorem everyStepKeepsTheInvariant : Obligations.EveryStepKeepsTheInvariant := by
  intro s t hs h
  cases step_cases h with
  | same h => exact hs.of_sameMachine h
  | engine p s0 _ hp hsame ht =>
    have hp0 : s0.pending = some p := hsame.pending_eq.trans hp
    obtain rfl := eq_effectOf_of_exec hp0 ht
    exact (hs.of_sameMachine hsame).effectOf hp0
  | reset s0 _ hsame ht => exact ht ▸ (hs.of_sameMachine hsame).resetMachine
  | read r s0 hsame ht =>
    obtain ⟨e, he, _⟩ := readReg_state r s0
    exact (he ▸ (hs.of_sameMachine hsame).setErr e : Inv (readReg r s0).2).of_sameMachine ht
  | write r v s0 _ hsame ht _ => exact (hs.of_sameMachine hsame).writeReg ht
  | memory addr bytes _ hle ht =>
    refine Inv.of_sameMachine ?_ ht
    exact hs.of_same_memories rfl rfl rfl rfl rfl rfl rfl rfl rfl (writeBytes_wf _ hs.mem hle) hs.pending

end Sys2Proof.Machine

namespace Sys2Proof.Machine

/-! The canvas before CLEAR and the LUT before BUILD_LUT are hidden (R39, R40, I2, I3): every action commutes with putting other
contents there. -/

/-- The state with other contents where no rule lets them be observed: in the canvas while CANVAS_INIT = 0, in the LUT while
LUT_VALID = 0. -/
def hide (canvas lut : List (Nat × Byte)) (u : State) : State :=
  { u with
    canvas := if u.canvasInit = true then u.canvas else canvas
    lut := if u.lutValid = true then u.lut else lut }

/-- The second answer is the first with other hidden contents, if the first is a next state. -/
def HidesTo (a b : Answer) : Prop := ∀ t, a = .next t → ∃ canvas lut, b = .next (hide canvas lut t)

/-- The pending command, if there is one, can run (R92). -/
def PendingReady (s : State) : Prop := ∀ p, s.pending = some p → pendingReady p s = true

theorem HidesTo.next {t u : State} (canvas lut : List (Nat × Byte)) (h : u = hide canvas lut t) :
    HidesTo (.next t) (.next u) := by
  intro t' ht
  obtain rfl : t = t' := by simpa using ht
  exact ⟨canvas, lut, by rw [h]⟩

theorem HidesTo.fault (f : Fault) (b : Answer) : HidesTo (.fault f) b := by intro t ht; cases ht

section
variable (canvas lut : List (Nat × Byte))

@[simp] theorem hide_params (s : State) : (hide canvas lut s).params = s.params := rfl
@[simp] theorem hide_canvasInit (s : State) : (hide canvas lut s).canvasInit = s.canvasInit := rfl
@[simp] theorem hide_lutValid (s : State) : (hide canvas lut s).lutValid = s.lutValid := rfl
@[simp] theorem hide_palComplete (s : State) : (hide canvas lut s).palComplete = s.palComplete := rfl
@[simp] theorem hide_lutDiam (s : State) : (hide canvas lut s).lutDiam = s.lutDiam := rfl
@[simp] theorem hide_canvasX (s : State) : (hide canvas lut s).canvasX = s.canvasX := rfl
@[simp] theorem hide_canvasY (s : State) : (hide canvas lut s).canvasY = s.canvasY := rfl
@[simp] theorem hide_lutI (s : State) : (hide canvas lut s).lutI = s.lutI := rfl
@[simp] theorem hide_lutJ (s : State) : (hide canvas lut s).lutJ = s.lutJ := rfl
@[simp] theorem hide_pending (s : State) : (hide canvas lut s).pending = s.pending := rfl
@[simp] theorem hide_busy (s : State) : (hide canvas lut s).busy = s.busy := rfl
@[simp] theorem hide_mem (s : State) : (hide canvas lut s).mem = s.mem := rfl
@[simp] theorem hide_host (s : State) : (hide canvas lut s).host = s.host := rfl
@[simp] theorem hide_events (s : State) : (hide canvas lut s).events = s.events := rfl

@[simp] theorem setErr_hide (b : BitVec 6) (s : State) : (hide canvas lut s).setErr b = hide canvas lut (s.setErr b) := rfl

theorem hide_canvas {s : State} (h : s.canvasInit = true) : (hide canvas lut s).canvas = s.canvas := if_pos h

theorem hide_lut {s : State} (h : s.lutValid = true) : (hide canvas lut s).lut = s.lut := if_pos h

theorem canvasCell_hide {s : State} (h : s.canvasInit = true) (x y : Nat) :
    canvasCell (hide canvas lut s) x y = canvasCell s x y := by
  simp only [canvasCell, hide_canvas _ _ h, hide_params]

theorem lutCell_hide {s : State} (h : s.lutValid = true) (i j : Nat) :
    lutCell (hide canvas lut s) i j = lutCell s i j := by
  simp only [lutCell, hide_lut _ _ h, hide_lutDiam]

/-- R107: CANVAS_DATA shows a cell only while CANVAS_INIT = 1. -/
theorem readCanvasData_hide (s : State) :
    readCanvasData (hide canvas lut s) = ((readCanvasData s).1, hide canvas lut (readCanvasData s).2) := by
  by_cases hbusy : s.busy = true
  · simp [readCanvasData, hbusy]
  · by_cases hcell : cellIn s.params s.canvasX.toNat s.canvasY.toNat = true
    · cases hinit : s.canvasInit with
      | true => simp [readCanvasData, hbusy, hcell, hinit, canvasCell_hide]
      | false => simp [readCanvasData, hbusy, hcell, hinit]
    · simp [readCanvasData, hbusy, hcell]

/-- R101: LUT_DATA shows a cell only while LUT_VALID = 1. -/
theorem readLutData_hide (s : State) :
    readLutData (hide canvas lut s) = ((readLutData s).1, hide canvas lut (readLutData s).2) := by
  by_cases hbusy : s.busy = true
  · simp [readLutData, hbusy]
  · cases hvalid : s.lutValid with
    | true =>
      by_cases hrange : s.lutDiam.toNat ≤ s.lutI.toNat ∨ s.lutDiam.toNat ≤ s.lutJ.toNat
      · simp [readLutData, hbusy, hvalid, hrange]
      · simp [readLutData, hbusy, hvalid, hrange, lutCell_hide]
    | false => simp [readLutData, hbusy, hvalid]

/-- R81: no register read depends on a hidden content. -/
theorem readReg_hide (r : Reg) (s : State) :
    readReg r (hide canvas lut s) = ((readReg r s).1, hide canvas lut (readReg r s).2) := by
  cases r
  case canvasData => exact readCanvasData_hide canvas lut s
  case lutData => exact readLutData_hide canvas lut s
  all_goals rfl

theorem dropReply_hide (s : State) : dropReply (hide canvas lut s) = hide canvas lut (dropReply s) := by
  rw [dropReply_eq, dropReply_eq]
  rfl

/-- R118: MAP reads the canvas, which is initialised when it runs. -/
theorem putPixel_hide {s : State} (h : s.canvasInit = true) (p : Pending) :
    putPixel p (hide canvas lut s) = hide canvas lut (putPixel p s) := by
  have hcolour : nextPixelColour p (hide canvas lut s) = nextPixelColour p s := by
    simp only [nextPixelColour, pixelColour, canvasCell_hide _ _ h, hide_params]
    rfl
  simp only [putPixel, hcolour, dropReply_hide]
  rfl

theorem mapPixel_hide {s : State} (h : s.canvasInit = true) (p : Pending) :
    mapPixel p (hide canvas lut s) = hide canvas lut (mapPixel p s) := by
  simp only [mapPixel, putPixel_hide _ _ h, hide_params, show nextReply (hide canvas lut s) = nextReply s from rfl]
  split_ifs <;> rfl

/-- R92: a command that can run does not depend on a hidden content: SPLAT, ADDSAT and MAP need CANVAS_INIT, and SPLAT needs
LUT_VALID. -/
theorem effectOf_hide {p : Pending} {s : State} (hr : pendingReady p s = true) :
    effectOf p (hide canvas lut s) = hide canvas lut (effectOf p s) := by
  obtain ⟨i, v, b, st, n⟩ := p
  cases i with
  | nop | clear | buildLut => rfl
  | splat x y =>
    obtain ⟨hinit, hvalid, _⟩ := pendingReady_splat rfl hr
    simp only [effectOf, hide_canvas _ _ hinit, hide_lut _ _ hvalid, hide_params, hide_lutDiam]
    simp [hide, complete, hinit, hvalid]
  | addsat x y =>
    obtain ⟨hinit, _⟩ := pendingReady_addsat rfl hr
    simp only [effectOf, hide_canvas _ _ hinit, hide_params]
    simp [hide, complete, hinit]
  | map => exact mapPixel_hide _ _ (pendingReady_map rfl hr).1 _

theorem issue_hide (i : Instr) (s : State) :
    issue i (checkOf i (hide canvas lut s)) (hide canvas lut s) = hide canvas lut (issue i (checkOf i s) s) := by
  have hcheck : checkOf i (hide canvas lut s) = checkOf i s := by cases i <;> rfl
  rw [hcheck]
  rcases issue_cases i (checkOf i s) s with ⟨hc, h⟩ | ⟨hc, h⟩ <;> rw [h, issue] <;> simp only [hc] <;> rfl

/-- R139: after a reset both memories are hidden. -/
theorem resetMachine_hide {s : State} (hr : PendingReady s) :
    resetMachine (hide canvas lut s) = hide [] [] (resetMachine s) := by
  have hstop : abandonPending (hide canvas lut s) = hide canvas lut (abandonPending s) := by
    rcases abandonPending_cases s with ⟨p, hp, hm, h⟩ | ⟨hnot, h⟩
    · rw [h, ← putPixel_hide _ _ (pendingReady_map hm (hr p hp)).1]
      simp [abandonPending, hp, hm]
    · rcases abandonPending_cases (hide canvas lut s) with ⟨p, hp, hm, _⟩ | ⟨_, h'⟩
      · exact absurd hm (hnot p hp)
      · rw [h', h]
  simp only [resetMachine, hstop]
  rfl

theorem writePlain_hide {s : State} (hr : PendingReady s) (r : Reg) (v : Word) :
    ∃ c l, writePlain r v (hide canvas lut s) = hide c l (writePlain r v s) := by
  cases r
  case ctrl =>
    simp only [writePlain, writeCtrl]
    split
    · exact ⟨[], [], resetMachine_hide canvas lut hr⟩
    · exact ⟨canvas, lut, rfl⟩
  all_goals
    refine ⟨canvas, lut, ?_⟩
  case int => simp only [writePlain, writeInt]; split <;> rfl
  case pal k =>
    cases hpal : s.palComplete with
    | true => simp only [writePlain, writePalette_complete, hide_palComplete, hpal, setErr_hide]
    | false => simp only [writePlain, writePalette_incomplete, hide_palComplete, hpal]; rfl
  all_goals rfl

theorem writeReg_hide {s : State} (hr : PendingReady s) (r : Reg) (v : Word) :
    HidesTo (writeReg r v s) (writeReg r v (hide canvas lut s)) := by
  by_cases hcmd : r = .cmd
  case neg =>
    obtain ⟨c, l, h⟩ := writePlain_hide canvas lut hr r v
    rw [writeReg_plain hcmd, writeReg_plain hcmd]
    exact .next c l h
  subst hcmd
  cases hp : s.pending with
  | some p =>
    rw [writeCmd_busy hp, writeCmd_busy (s := hide canvas lut s) hp]
    exact .next canvas lut rfl
  | none =>
    cases hd : decode v with
    | error e =>
      rw [writeCmd_illegal hp hd, writeCmd_illegal (s := hide canvas lut s) hp hd]
      exact .next canvas lut rfl
    | ok i =>
      rw [writeCmd_command hp hd, writeCmd_command (s := hide canvas lut s) hp hd, exec_idle hp,
        exec_idle (s := hide canvas lut s) hp]
      exact .next canvas lut (issue_hide canvas lut i s)

theorem engineTurn_hide {s : State} (hr : PendingReady s) :
    HidesTo (engineTurn s) (engineTurn (hide canvas lut s)) := by
  cases hp : s.pending with
  | none =>
    simp only [engineTurn, hide_pending, hp]
    exact .next canvas lut rfl
  | some p =>
    simp only [engineTurn, hide_pending, hp, exec_running hp, exec_running (s := hide canvas lut s) hp]
    exact .next canvas lut (effectOf_hide canvas lut (hr p hp))

theorem runStmt_hide {s : State} (hr : PendingReady s) (st : Stmt) :
    HidesTo (runStmt st s) (runStmt st (hide canvas lut s)) := by
  cases st with
  | cmd i =>
    simp only [runStmt]
    split
    · exact writeReg_hide canvas lut (s := respond .done s) hr _ _
    · exact .fault _ _
  | wr r v => exact writeReg_hide canvas lut (s := respond .done s) hr _ _
  | rd r n =>
    simp only [runStmt, readReg_hide]
    exact .next canvas lut rfl
  | label l => exact .next canvas lut rfl
  | bnz n mask l =>
    by_cases htest : tempValue s.host n &&& mask = 0
    · simp only [runStmt, hide_host, htest, ne_eq, not_true_eq_false, if_false]
      exact .next canvas lut rfl
    · simp only [runStmt, hide_host, htest, ne_eq, not_false_eq_true, if_true]
      split
      · exact .next canvas lut rfl
      · exact .fault _ _

theorem hostTurn_hide {s : State} (hr : PendingReady s) : HidesTo (hostTurn s) (hostTurn (hide canvas lut s)) := by
  simp only [hostTurn, hide_host]
  split
  · exact .next canvas lut rfl
  · exact runStmt_hide canvas lut (s := advanceHost s) hr _

theorem runEvent_hide {s : State} (hr : PendingReady s) (e : Event) :
    HidesTo (runEvent e s) (runEvent e (hide canvas lut s)) := by
  cases e with
  | host => exact hostTurn_hide canvas lut hr
  | engine => exact engineTurn_hide canvas lut hr
  | reset => exact .next [] [] (resetMachine_hide canvas lut hr)
  | read width offset =>
    refine .next canvas lut ?_
    simp only [portRead, readReg_hide]
    split <;> rfl
  | write width offset v =>
    simp only [runEvent, portWrite]
    split
    · exact .next canvas lut rfl
    · exact writeReg_hide canvas lut (s := respond .done s) hr _ _
  | memRead addr n =>
    simp only [runEvent, hostMemRead, hide_mem]
    split
    · exact .fault _ _
    · exact .next canvas lut rfl
  | memWrite addr bytes =>
    simp only [runEvent, hostMemWrite, hide_mem]
    split
    · exact .fault _ _
    · exact .next canvas lut rfl

theorem runFree_hide {s : State} (hr : PendingReady s) : HidesTo (runFree s) (runFree (hide canvas lut s)) := by
  simp only [runFree, hide_busy, show engineDue (hide canvas lut s) = engineDue s from rfl]
  split
  · split
    · exact engineTurn_hide canvas lut (s := nextDelay s) hr
    · exact hostTurn_hide canvas lut (s := countWait s) hr
  · exact hostTurn_hide canvas lut hr

theorem step_hide {s : State} (hr : PendingReady s) : HidesTo (step s) (step (hide canvas lut s)) := by
  simp only [step, turn, hide_events]
  split
  · exact runFree_hide canvas lut hr
  · exact runEvent_hide canvas lut (s := dropEvent s) hr _

end

/-- Settles O57: every kind of turn commutes with `hide`. -/
theorem hiddenMemoriesAreNotObservable : Obligations.HiddenMemoriesAreNotObservable :=
  fun _ t canvas lut hr h => step_hide canvas lut hr t h

end Sys2Proof.Machine

namespace Sys2Proof.Machine

/-! What the engine's step of each command leaves alone, and what it cannot undo. -/

/-- R94, R100, R105, R106, R109: the engine's step of a one-step command ends it and moves the canvas or the LUT at most. -/
theorem effectOf_oneStep_frame {p : Pending} (hm : p.instr ≠ .map) (s : State) :
    effectOf p s = { s with
      canvas := (effectOf p s).canvas, canvasInit := (effectOf p s).canvasInit, lut := (effectOf p s).lut
      lutDiam := (effectOf p s).lutDiam, lutValid := (effectOf p s).lutValid
      pending := none, errCode := .ok, done := true } := by
  obtain ⟨i, v, b, st, n⟩ := p
  cases i with
  | map => exact absurd rfl hm
  | nop | clear | buildLut | splat | addsat => rfl

/-- R39: only CLEAR, SPLAT and ADDSAT write the canvas. -/
theorem effectOf_canvas {p : Pending} {s : State} (hclear : p.instr ≠ .clear) (hsplat : ∀ x y, p.instr ≠ .splat x y)
    (haddsat : ∀ x y, p.instr ≠ .addsat x y) : (effectOf p s).canvas = s.canvas := by
  cases hi : p.instr with
  | nop => rw [effectOf_nop s hi]; rfl
  | clear => exact absurd hi hclear
  | buildLut d => rw [effectOf_buildLut s hi]; rfl
  | splat x y => exact absurd hi (hsplat x y)
  | addsat x y => exact absurd hi (haddsat x y)
  | map => rw [effectOf_map s hi, mapPixel_frame]

/-- R105: only CLEAR moves CANVAS_INIT, and it sets it. -/
theorem effectOf_canvasInit (p : Pending) (s : State) :
    (effectOf p s).canvasInit = if p.instr = .clear then true else s.canvasInit := by
  obtain ⟨i, v, b, st, n⟩ := p
  cases i with
  | nop | clear | buildLut | splat | addsat => rfl
  | map => rw [effectOf_map s rfl, mapPixel_frame]; rfl

/-- R40: only BUILD_LUT writes the LUT, its diameter and LUT_VALID. -/
theorem effectOf_lut {p : Pending} {s : State} (hbuild : ∀ d, p.instr ≠ .buildLut d) :
    (effectOf p s).lut = s.lut ∧ (effectOf p s).lutDiam = s.lutDiam ∧ (effectOf p s).lutValid = s.lutValid := by
  cases hi : p.instr with
  | nop => rw [effectOf_nop s hi]; exact ⟨rfl, rfl, rfl⟩
  | clear => rw [effectOf_clear s hi]; exact ⟨rfl, rfl, rfl⟩
  | buildLut d => exact absurd hi (hbuild d)
  | splat x y => rw [effectOf_splat s hi]; exact ⟨rfl, rfl, rfl⟩
  | addsat x y => rw [effectOf_addsat s hi]; exact ⟨rfl, rfl, rfl⟩
  | map => rw [effectOf_map s hi, mapPixel_frame]; exact ⟨rfl, rfl, rfl⟩

theorem effectOf_params (p : Pending) (s : State) : (effectOf p s).params = s.params := by
  by_cases hm : p.instr = .map
  · rw [effectOf_map _ hm, mapPixel_frame]
  · rw [effectOf_oneStep_frame hm]

/-- R49: only MAP stores in the external memory. -/
theorem effectOf_mem (p : Pending) (s : State) :
    (effectOf p s).mem = if p.instr = .map then (putPixel p s).mem else s.mem := by
  by_cases hm : p.instr = .map
  · rw [if_pos hm, effectOf_map _ hm, mapPixel_mem]
  · rw [if_neg hm, effectOf_oneStep_frame hm]

/-- Settles O21: the frame of a one-step command, and who writes the canvas and the LUT. -/
theorem oneStepCommandFrame : Obligations.OneStepCommandFrame := by
  intro s t p i hp hi hm h
  subst hi
  obtain rfl := eq_effectOf_of_exec hp h
  refine ⟨effectOf_oneStep_frame hm s, fun hclear => ?_, effectOf_canvas, effectOf_lut, fun a => ?_⟩
  · rw [effectOf_canvasInit, if_neg hclear]
  · rw [effectOf_mem, if_neg hm]

/-- Settles O22: the frame of a step of MAP, whose memory is that of its pixel's write. -/
theorem mapStepFrame : Obligations.MapStepFrame := by
  intro s t p hp hm h
  obtain rfl : mapPixel p s = t := (effectOf_map s hm).symm.trans (eq_effectOf_of_exec hp (hm ▸ h))
  exact ⟨mapPixel_frame p s, fun a ha => mapPixel_mem p s ▸ putPixel_outside p s a ha⟩

/-- R87: an issue moves no ERR bit but CMD_ERR. -/
theorem issue_err (i : Instr) (c : ErrCode) (s : State) {b : Nat} (hb : 1 ≤ b) :
    (issue i c s).err.getLsbD b = s.err.getLsbD b := by
  have hbit : errCmdErr.getLsbD b = false := by
    rw [show errCmdErr = BitVec.twoPow 6 0 from rfl, BitVec.getLsbD_twoPow]
    simp; omega
  rcases issue_cases i c s with ⟨_, h⟩ | ⟨_, h⟩ <;> rw [h]
  · rfl
  · rw [reject_err, BitVec.getLsbD_or, hbit, Bool.or_false]

theorem issue_lastOp (i : Instr) (c : ErrCode) (s : State) : (issue i c s).lastOp = i.opcode := by
  rcases issue_cases i c s with ⟨_, h⟩ | ⟨_, h⟩ <;> rw [h] <;> rfl

/-- Settles O23: an issue is an acceptance or a rejection. -/
theorem issueFrame : Obligations.IssueFrame := by
  intro s t i hp h
  obtain rfl := eq_issue_of_exec hp h
  exact ⟨issue_frame _ _ _, issue_lastOp _ _ _, fun b => issue_err _ _ _, fun a => by rw [issue_frame]⟩

/-! Which steps move the canvas, the LUT and their flags (R39, R40). -/

/-- The build parameters, the canvas, the LUT and their flags are those of `s`. -/
structure SameTables (s t : State) : Prop where
  params : t.params = s.params
  canvas : t.canvas = s.canvas
  canvasInit : t.canvasInit = s.canvasInit
  lut : t.lut = s.lut
  lutDiam : t.lutDiam = s.lutDiam
  lutValid : t.lutValid = s.lutValid

theorem SameTables.trans {s t u : State} (h : SameTables s t) (h' : SameTables t u) : SameTables s u :=
  ⟨h'.params.trans h.params, h'.canvas.trans h.canvas, h'.canvasInit.trans h.canvasInit, h'.lut.trans h.lut,
    h'.lutDiam.trans h.lutDiam, h'.lutValid.trans h.lutValid⟩

theorem SameMachine.sameTables {s t : State} (h : SameMachine s t) : SameTables s t := by
  obtain ⟨_, _, _, _, _, rfl⟩ := h
  exact ⟨rfl, rfl, rfl, rfl, rfl, rfl⟩

theorem SameMachine.mem_eq {s t : State} (h : SameMachine s t) : t.mem = s.mem := by
  obtain ⟨_, _, _, _, _, rfl⟩ := h
  rfl

theorem SameMachine.nextPixelAddr_eq {s t : State} (h : SameMachine s t) (p : Pending) :
    nextPixelAddr p t = nextPixelAddr p s := by
  obtain ⟨_, _, _, _, _, rfl⟩ := h
  rfl

/-- R82, R88: a register write that is no soft reset moves neither the canvas nor the LUT nor the external memory. -/
theorem writeReg_sameTables {r : Reg} {v : Word} {s t : State} (hc : r = .ctrl → v.getLsbD 0 = false)
    (h : writeReg r v s = .next t) : SameTables s t ∧ t.mem = s.mem := by
  rcases writeReg_cases h with ⟨hr, hv, _⟩ | ⟨_, _, rfl⟩ | ⟨_, _, rfl⟩ | ⟨_, _, _, _, rfl⟩ | ⟨_, hp, i, _, hexec⟩
  · exact absurd (hc hr) (by simp [hv])
  · rw [writePlain_frame s hc]; exact ⟨⟨rfl, rfl, rfl, rfl, rfl, rfl⟩, rfl⟩
  · exact ⟨⟨rfl, rfl, rfl, rfl, rfl, rfl⟩, rfl⟩
  · exact ⟨⟨rfl, rfl, rfl, rfl, rfl, rfl⟩, rfl⟩
  · obtain rfl := eq_issue_of_exec hp hexec
    rw [issue_frame]; exact ⟨⟨rfl, rfl, rfl, rfl, rfl, rfl⟩, rfl⟩

/-- A step is a reset, the engine's step on the pending command, or one that leaves the canvas, the LUT and their flags, and
then the external memory too unless the host writes it. -/
theorem step_reset_engine_or_sameTables {s t : State} (h : step s = .next t) :
    (resetsNow s ∧ ∃ s0, SameMachine s s0 ∧ t = resetMachine s0) ∨
    (engineMoves s = true ∧ ∃ p s0, s.pending = some p ∧ SameMachine s s0 ∧ t = effectOf p s0) ∨
    (SameTables s t ∧ (t.mem = s.mem ∨ memoryWrittenNow s)) := by
  cases step_cases h with
  | same h => exact .inr (.inr ⟨h.sameTables, .inl h.mem_eq⟩)
  | engine p s0 hmoves hp hs ht =>
    exact .inr (.inl ⟨hmoves, p, s0, hp, hs, (eq_effectOf_of_exec (hs.pending_eq.trans hp) ht).symm⟩)
  | reset s0 hr hs ht => exact .inl ⟨hr, s0, hs, ht⟩
  | read r s0 hs ht =>
    obtain ⟨e, he, _⟩ := readReg_state r s0
    rw [he] at ht
    have hread : SameTables s0 { s0 with err := s0.err ||| e } := ⟨rfl, rfl, rfl, rfl, rfl, rfl⟩
    exact .inr (.inr ⟨(hs.sameTables.trans hread).trans ht.sameTables, .inl (ht.mem_eq.trans hs.mem_eq)⟩)
  | write r v s0 _ hs ht hc =>
    obtain ⟨htables, hmem⟩ := writeReg_sameTables hc ht
    exact .inr (.inr ⟨hs.sameTables.trans htables, .inl (hmem.trans hs.mem_eq)⟩)
  | memory addr bytes hw _ ht =>
    have hmem : SameTables s { s with mem := writeBytes s.mem addr.toNat bytes } := ⟨rfl, rfl, rfl, rfl, rfl, rfl⟩
    exact .inr (.inr ⟨hmem.trans ht.sameTables, .inr hw⟩)

/-- Settles O53: a reset apart, the LUT moves only in an engine step, and there only for BUILD_LUT, which a valid LUT keeps from
being pending. -/
theorem onlyBuildLutAndResetChangeTheLut : Obligations.OnlyBuildLutAndResetChangeTheLut := by
  intro s t h
  rcases step_reset_engine_or_sameTables h with ⟨hr, _⟩ | ⟨hmoves, p, s0, hp, hs, rfl⟩ | ⟨hsame, _⟩
  · exact ⟨fun _ => .inl hr, fun _ _ hnot => absurd hr hnot⟩
  · have hs0 := hs.sameTables
    by_cases hbuild : ∃ d, p.instr = .buildLut d
    · obtain ⟨d, hd⟩ := hbuild
      refine ⟨fun _ => .inr ⟨hmoves, p, d, hp, hd⟩, fun hinv hvalid _ => ?_⟩
      obtain ⟨_, hinvalid, _⟩ := pendingReady_buildLut hd (hinv.pending p hp)
      simp [hvalid] at hinvalid
    · obtain ⟨hlut, hdiam, hvalid⟩ := effectOf_lut (s := s0) (not_exists.1 hbuild)
      rw [hlut, hdiam, hvalid, hs0.lut, hs0.lutDiam, hs0.lutValid]
      exact ⟨fun hne => by simp at hne, fun _ hv _ => ⟨rfl, rfl, hv⟩⟩
  · rw [hsame.lut, hsame.lutDiam, hsame.lutValid]
    exact ⟨fun hne => by simp at hne, fun _ hv _ => ⟨rfl, rfl, hv⟩⟩

/-- Settles O54: a reset apart, the canvas moves only in an engine step, and there only for three commands. -/
theorem onlyThreeCommandsWriteTheCanvas : Obligations.OnlyThreeCommandsWriteTheCanvas := by
  intro s t h hne
  rcases step_reset_engine_or_sameTables h with ⟨hr, _⟩ | ⟨hmoves, p, s0, hp, hs, rfl⟩ | ⟨hsame, _⟩
  · exact .inl hr
  · refine .inr ⟨hmoves, p, hp, ?_⟩
    by_contra hnone
    push Not at hnone
    obtain ⟨hclear, haddsat, hsplat⟩ := hnone
    exact hne ((effectOf_canvas hclear hsplat haddsat).trans hs.sameTables.canvas)
  · exact absurd hsame.canvas hne

/-- Settles O55: a host write apart, the external memory moves only by the write of a MAP's pixel, in its engine step or in the
reset that stops it. -/
theorem externalMemoryChangesOnlyByMapOrHost : Obligations.ExternalMemoryChangesOnlyByMapOrHost := by
  intro s t h hne
  rcases step_reset_engine_or_sameTables h with ⟨hr, s0, hs, rfl⟩ | ⟨hmoves, p, s0, hp, hs, rfl⟩ | ⟨_, hmem | hw⟩
  · rw [resetMachine_mem, ← hs.mem_eq] at hne
    rcases abandonPending_cases s0 with ⟨p, hp, hm, hput⟩ | ⟨_, hstay⟩
    · refine .inr ⟨p, hs.pending_eq ▸ hp, hm, .inr hr, fun a ha => ?_⟩
      rw [resetMachine_mem, hput, putPixel_outside p s0 a (hs.nextPixelAddr_eq p ▸ ha), hs.mem_eq]
    · rw [hstay] at hne
      exact absurd rfl hne
  · rw [effectOf_mem, ← hs.mem_eq] at hne
    by_cases hm : p.instr = .map
    · refine .inr ⟨p, hp, hm, .inl hmoves, fun a ha => ?_⟩
      rw [effectOf_mem, if_pos hm, putPixel_outside p s0 a (hs.nextPixelAddr_eq p ▸ ha), hs.mem_eq]
    · rw [if_neg hm] at hne
      exact absurd rfl hne
  · exact absurd hmem hne
  · exact .inl hw

end Sys2Proof.Machine

namespace Sys2Proof.Machine

/-! The sticky bits (R26, R27): no action but a written 1 or a reset clears DONE or an ERR bit. -/

/-- DONE and the ERR bits that are 1 in `s` are 1 in `t`. -/
structure KeepsSticky (s t : State) : Prop where
  done : s.done = true → t.done = true
  err : ∀ b, s.err.getLsbD b = true → t.err.getLsbD b = true

theorem KeepsSticky.trans {s t u : State} (h : KeepsSticky s t) (h' : KeepsSticky t u) : KeepsSticky s u :=
  ⟨fun hd => h'.done (h.done hd), fun b hb => h'.err b (h.err b hb)⟩

/-- A state with the same DONE, or DONE set, and the same ERR bits, or more of them. -/
theorem KeepsSticky.of_or {s t : State} (e : BitVec 6) (hdone : t.done = s.done ∨ t.done = true)
    (herr : t.err = s.err ||| e) : KeepsSticky s t where
  done := fun hd => hdone.elim (fun h => h.trans hd) id
  err := fun b hb => by rw [herr, BitVec.getLsbD_or, hb, Bool.true_or]

/-- A state with the same DONE, or DONE set, and the same ERR bits. -/
theorem KeepsSticky.of_eq {s t : State} (hdone : t.done = s.done ∨ t.done = true) (herr : t.err = s.err) :
    KeepsSticky s t :=
  .of_or 0 hdone (by simpa using herr)

theorem SameMachine.keepsSticky {s t : State} (h : SameMachine s t) : KeepsSticky s t := by
  obtain ⟨_, _, _, _, _, rfl⟩ := h
  exact .of_eq (.inl rfl) rfl

/-- R91: an ending sets DONE, and CMD_ERR if it has a code; a MAP that goes on moves neither. -/
theorem effectOf_keepsSticky (p : Pending) (s : State) : KeepsSticky s (effectOf p s) := by
  by_cases hm : p.instr = .map
  · rw [effectOf_map _ hm]
    rcases mapPixel_cases p s with ⟨_, _, h⟩ | ⟨_, _, h⟩ | ⟨_, h⟩ <;> rw [h]
    · exact .of_eq (.inr rfl) (putPixel_err p s)
    · exact .of_eq (.inl (putPixel_done p s)) (putPixel_err p s)
    · exact .of_or errCmdErr (.inr rfl) (congrArg (· ||| errCmdErr) (putPixel_err p s))
  · rw [effectOf_oneStep_frame hm]
    exact .of_eq (.inr rfl) rfl

theorem reject_keepsSticky (c : ErrCode) (op : BitVec 4) (s : State) : KeepsSticky s (reject c op s) :=
  .of_or errCmdErr (.inr rfl) rfl

theorem overrun_keepsSticky (s : State) : KeepsSticky s (overrun s) := .of_or errCmdOverrun (.inl rfl) rfl

theorem issue_keepsSticky (i : Instr) (c : ErrCode) (s : State) : KeepsSticky s (issue i c s) := by
  rcases issue_cases i c s with ⟨_, h⟩ | ⟨_, h⟩ <;> rw [h]
  · exact .of_eq (.inl rfl) rfl
  · exact reject_keepsSticky c _ s

/-- R82: of the register writes that are no soft reset, INT's and ERR's alone clear sticky bits. -/
theorem writePlain_keepsSticky {r : Reg} {v : Word} (s : State) (hc : r = .ctrl → v.getLsbD 0 = false) (hint : r ≠ .int)
    (herr : r ≠ .err) : KeepsSticky s (writePlain r v s) := by
  cases r with
  | int => exact absurd rfl hint
  | err => exact absurd rfl herr
  | ctrl => simp only [writePlain, writeCtrl, hc rfl]; exact .of_eq (.inl rfl) rfl
  | pal k =>
    by_cases hpal : s.palComplete = true
    · rw [writePlain, writePalette_complete hpal]; exact .of_or errPalLocked (.inl rfl) rfl
    · rw [writePlain, writePalette_incomplete (by simpa using hpal)]; exact .of_eq (.inl rfl) rfl
  | _ => exact .of_eq (.inl rfl) rfl

/-- R27: an INT write clears DONE if its bit 0 is 1, and nothing else. -/
theorem writeInt_eq (v : Word) (s : State) : writeInt v s = { s with done := s.done && !v.getLsbD 0 } := by
  unfold writeInt
  cases v.getLsbD 0 <;> simp

/-- R26: an ERR write clears the bits that it writes as 1. -/
theorem getLsbD_err_writeErr (v : Word) (s : State) {b : Nat} (hb : b < 6) :
    (writeErr v s).err.getLsbD b = (s.err.getLsbD b && !v.getLsbD b) := by
  simp [writeErr, hb]

/-- DONE and the ERR bits go from 1 in `s` to 0 in `t` only by the register write `w` of a 1 to them (R19). -/
structure ClearsOnlyBy (w : Option (Reg × Word)) (s t : State) : Prop where
  done : s.done = true → t.done = false → ∃ v, w = some (.int, v) ∧ v.getLsbD 0 = true
  err : ∀ b, s.err.getLsbD b = true → t.err.getLsbD b = false → ∃ v, w = some (.err, v) ∧ v.getLsbD b = true

theorem KeepsSticky.clearsOnlyBy {s t : State} (h : KeepsSticky s t) (w : Option (Reg × Word)) : ClearsOnlyBy w s t where
  done := fun hd ht => by simp [h.done hd] at ht
  err := fun b hb ht => by simp [h.err b hb] at ht

theorem KeepsSticky.trans_clearsOnlyBy {w : Option (Reg × Word)} {s t u : State} (h : KeepsSticky s t)
    (h' : ClearsOnlyBy w t u) : ClearsOnlyBy w s u :=
  ⟨fun hd => h'.done (h.done hd), fun b hb => h'.err b (h.err b hb)⟩

/-- R26, R27, R82: a register write that is no soft reset clears sticky bits through INT and ERR alone. -/
theorem writeReg_clearsOnlyBy {r : Reg} {v : Word} {s t : State} (hc : r = .ctrl → v.getLsbD 0 = false)
    (h : writeReg r v s = .next t) : ClearsOnlyBy (some (r, v)) s t := by
  rcases writeReg_cases h with ⟨hr, hv, _⟩ | ⟨_, _, rfl⟩ | ⟨_, _, rfl⟩ | ⟨_, _, _, _, rfl⟩ | ⟨_, hp, i, _, hexec⟩
  · exact absurd (hc hr) (by simp [hv])
  · by_cases hint : r = .int
    · subst hint
      rw [writePlain, writeInt_eq]
      exact ⟨fun hd ht => ⟨v, rfl, by simpa [hd] using ht⟩, fun b hb ht => by simp [hb] at ht⟩
    · by_cases herr : r = .err
      · subst herr
        refine ⟨fun hd ht => by simp [writePlain, writeErr, hd] at ht, fun b hb ht => ⟨v, rfl, ?_⟩⟩
        rw [writePlain, getLsbD_err_writeErr v s (BitVec.lt_of_getLsbD hb), hb] at ht
        simpa using ht
      · exact (writePlain_keepsSticky s hc hint herr).clearsOnlyBy _
  · exact (overrun_keepsSticky s).clearsOnlyBy _
  · exact (reject_keepsSticky _ _ s).clearsOnlyBy _
  · obtain rfl := eq_issue_of_exec hp hexec
    exact (issue_keepsSticky i _ s).clearsOnlyBy _

/-- R26, R27: a step that is no reset clears a sticky bit only by the register write that it is. -/
theorem step_clearsOnlyBy {s t : State} (h : step s = .next t) (hr : ¬ resetsNow s) :
    ClearsOnlyBy (writesNow s) s t := by
  cases step_cases h with
  | same hs => exact hs.keepsSticky.clearsOnlyBy _
  | engine p s0 _ hp hs ht =>
    obtain rfl := eq_effectOf_of_exec (hs.pending_eq.trans hp) ht
    exact (hs.keepsSticky.trans (effectOf_keepsSticky p s0)).clearsOnlyBy _
  | reset s0 hreset => exact absurd hreset hr
  | read r s0 hs ht =>
    obtain ⟨e, he, _⟩ := readReg_state r s0
    have hread : KeepsSticky s0 (readReg r s0).2 := by rw [he]; exact .of_or e (.inl rfl) rfl
    exact ((hs.keepsSticky.trans hread).trans ht.keepsSticky).clearsOnlyBy _
  | write r v s0 hw hs ht hc =>
    rw [hw]
    exact hs.keepsSticky.trans_clearsOnlyBy (writeReg_clearsOnlyBy hc ht)
  | memory addr bytes _ _ ht =>
    have hmem : KeepsSticky s { s with mem := writeBytes s.mem addr.toNat bytes } := .of_eq (.inl rfl) rfl
    exact (hmem.trans ht.keepsSticky).clearsOnlyBy _

/-- R100, R105: an engine step leaves LUT_VALID and CANVAS_INIT set. -/
theorem effectOf_readiness (p : Pending) (s : State) :
    (s.canvasInit = true → (effectOf p s).canvasInit = true) ∧ (s.lutValid = true → (effectOf p s).lutValid = true) := by
  refine ⟨fun h => by rw [effectOf_canvasInit, h, ite_self], fun h => ?_⟩
  by_cases hbuild : ∃ d, p.instr = .buildLut d
  · obtain ⟨d, hd⟩ := hbuild
    rw [effectOf_buildLut s hd]; rfl
  · exact (effectOf_lut (not_exists.1 hbuild)).2.2.trans h

/-- R6: no step moves the build parameters. -/
theorem step_params {s t : State} (h : step s = .next t) : t.params = s.params := by
  rcases step_reset_engine_or_sameTables h with ⟨_, s0, hs, rfl⟩ | ⟨_, p, s0, _, hs, rfl⟩ | ⟨hsame, _⟩
  · exact (resetMachine_params s0).trans hs.sameTables.params
  · exact (effectOf_params p s0).trans hs.sameTables.params
  · exact hsame.params

/-- R25: a step that is no reset leaves CANVAS_INIT and LUT_VALID set. -/
theorem step_readiness {s t : State} (h : step s = .next t) (hr : ¬ resetsNow s) :
    (s.canvasInit = true → t.canvasInit = true) ∧ (s.lutValid = true → t.lutValid = true) := by
  rcases step_reset_engine_or_sameTables h with ⟨hreset, _⟩ | ⟨_, p, s0, _, hs, rfl⟩ | ⟨hsame, _⟩
  · exact absurd hreset hr
  · rw [← hs.sameTables.canvasInit, ← hs.sameTables.lutValid]
    exact effectOf_readiness p s0
  · rw [hsame.canvasInit, hsame.lutValid]
    exact ⟨id, id⟩

/-- Settles O56: the palette, the two readiness flags and the sticky bits, each by its own account of a step. -/
theorem onlyResetClearsReadinessFlags : Obligations.OnlyResetClearsReadinessFlags := by
  intro s t h
  refine ⟨step_params h, fun hr => ⟨fun hpal => ?_, ?_, ?_, ?_, ?_⟩⟩
  · have hsame := step_samePalette hpal h hr
    exact ⟨hsame.complete.trans hpal, hsame.pal, hsame.mask, hsame.count⟩
  · exact (step_readiness h hr).1
  · exact (step_readiness h hr).2
  · exact (step_clearsOnlyBy h hr).done
  · exact (step_clearsOnlyBy h hr).err

/-! The register port: bus errors, responses and what a read or a write leaves alone (R80 to R82). -/

/-- R82: a register write moves no response. -/
theorem writeReg_response {r : Reg} {v : Word} {s t : State} (h : writeReg r v s = .next t) : t.response = s.response := by
  rcases writeReg_cases h with ⟨_, _, rfl⟩ | ⟨_, hc, rfl⟩ | ⟨_, _, rfl⟩ | ⟨_, _, _, _, rfl⟩ | ⟨_, hp, i, _, hexec⟩
  · exact resetMachine_response s
  · rw [writePlain_frame s hc]
  · rfl
  · rfl
  · obtain rfl := eq_issue_of_exec hp hexec
    rw [issue_frame]

/-- Settles O24: the accesses that reach no register are those named, and every other gets its data or its normal response. -/
theorem badAccessGetsABusError : Obligations.BadAccessGetsABusError := by
  intro s width offset v
  rw [← regAt_eq_none_iff]
  refine ⟨fun hnone => ?_, fun hsome => ?_⟩
  · simp only [step_before, runEvent, portRead, portWrite, hnone]
    exact ⟨rfl, rfl⟩
  · obtain ⟨r, hr⟩ := Option.ne_none_iff_exists'.1 hsome
    obtain ⟨t, ht⟩ := writeReg_answers r v (respond .done s)
    exact ⟨⟨_, _, step_read hr s, rfl⟩, t, (step_write hr v s).trans ht, writeReg_response ht⟩

/-- The bits that a data port's read may set are 3 to 5 (R83, R101, R107). -/
theorem dataPort_err_low {e : BitVec 6} (he : e = 0 ∨ e = errBusyAccess ∨ e = errPortRange ∨ e = errNotInit) :
    ∀ b, b < 3 → e.getLsbD b = false := by
  rcases he with rfl | rfl | rfl | rfl <;> decide

/-- Settles O25: a read's state is the one it finds with at most one ERR bit more, bit 3, 4 or 5. -/
theorem onlyDataPortReadsHaveSideEffects : Obligations.OnlyDataPortReadsHaveSideEffects := by
  intro s r
  obtain ⟨e, he, hplain, hbits⟩ := readReg_state r s
  refine ⟨fun hcanvas hlut => ?_, _, step_readReg r s, ?_, fun b hb => ?_, fun b hb => ?_⟩
  · rw [step_readReg, hplain hcanvas hlut]; rfl
  · rw [he]; rfl
  · simp [he, dataPort_err_low hbits b hb]
  · simp [he, hb]

/-- Settles O31: a CMD write is dropped, and any other register write but a soft reset moves the host's own registers alone. -/
theorem hostWritesLeaveThePendingCommand : Obligations.HostWritesLeaveThePendingCommand := by
  intro s p r v hp hc
  by_cases hcmd : r = .cmd
  · subst hcmd
    exact ⟨_, step_writeCmd_busy hp v, hp, rfl, rfl, rfl, rfl, rfl⟩
  · refine ⟨_, step_writePlain hcmd v s, ?_⟩
    rw [writePlain_frame (respond .done s) hc]
    exact ⟨hp, rfl, rfl, rfl, rfl, rfl⟩

end Sys2Proof.Machine

namespace Sys2Proof.Machine

/-! What answers a turn (R78, R80, R90, R124): the MBSA always has a next state; a fault is the host's own. -/

/-- The host program's next statement has no meaning in R78: a command that no word holds, or a branch to a missing label. -/
def StuckStmt (prog : List Stmt) (st : Stmt) : Prop :=
  (∃ i, st = .cmd i ∧ i.wf = false) ∨ ∃ t mask l, st = .bnz t mask l ∧ labelIndex l prog = none

/-- A statement is executed, or it is one without a meaning (log 8). -/
theorem runStmt_answers (st : Stmt) (s : State) :
    (∃ t, runStmt st s = .next t) ∨ (StuckStmt s.host.prog st ∧ ∃ f, runStmt st s = .fault f) := by
  cases st with
  | cmd i =>
    by_cases hi : i.wf = true
    · obtain ⟨t, ht⟩ := writeReg_answers .cmd (encode i) (respond .done s)
      exact .inl ⟨t, (if_pos hi).trans ht⟩
    · exact .inr ⟨.inl ⟨i, rfl, by simpa using hi⟩, _, if_neg hi⟩
  | wr r v => exact .inl (writeReg_answers r v (respond .done s))
  | rd r n => exact .inl ⟨_, rfl⟩
  | label l => exact .inl ⟨_, rfl⟩
  | bnz n mask l =>
    simp only [runStmt]
    split
    · cases hl : labelIndex l s.host.prog with
      | some k => exact .inl ⟨_, rfl⟩
      | none => exact .inr ⟨.inr ⟨n, mask, l, rfl, hl⟩, _, rfl⟩
    · exact .inl ⟨_, rfl⟩

theorem hostTurn_answers (s : State) :
    (∃ t, hostTurn s = .next t) ∨
    ((∃ st, s.host.prog[s.host.pc]? = some st ∧ StuckStmt s.host.prog st) ∧ ∃ f, hostTurn s = .fault f) := by
  unfold hostTurn
  cases hst : s.host.prog[s.host.pc]? with
  | none => exact .inl ⟨s, rfl⟩
  | some st => exact (runStmt_answers st (advanceHost s)).imp_right fun ⟨hstuck, hf⟩ => ⟨⟨st, rfl, hstuck⟩, hf⟩

theorem engineTurn_answers (s : State) : ∃ t, engineTurn s = .next t := by
  unfold engineTurn
  split
  · exact ⟨s, rfl⟩
  · exact exec_answers _ s

theorem portWrite_answers (width : Nat) (offset : BitVec 12) (v : Word) (s : State) :
    ∃ t, portWrite width offset v s = .next t := by
  unfold portWrite
  split
  · exact ⟨_, rfl⟩
  · exact writeReg_answers _ v _

/-- The host actions without a meaning: an access past the end of the external memory (log 3), or a statement of its program
(log 8). -/
def HostStuck (s : State) : Prop :=
  (∃ addr n, s.events.head? = some (.memRead addr n) ∧ 2 ^ 32 < addr.toNat + n) ∨
  (∃ addr bytes, s.events.head? = some (.memWrite addr bytes) ∧ 2 ^ 32 < addr.toNat + bytes.length) ∨
  (hostMoves s = true ∧ ∃ st, s.host.prog[s.host.pc]? = some st ∧ StuckStmt s.host.prog st)

/-- A free-running step is answered, or it is the host's and its statement is stuck. -/
theorem runFree_answers {s : State} (hev : s.events = []) :
    (∃ t, runFree s = .next t) ∨ (HostStuck s ∧ ∃ f, runFree s = .fault f) := by
  unfold runFree
  by_cases hb : s.busy = true
  · by_cases hd : engineDue s = true
    · simp only [hb, hd, if_true]
      exact .inl (engineTurn_answers _)
    · have hmoves : hostMoves s = true := by simp [hostMoves, hev, hd]
      simp only [hb, hd, if_true]
      exact (hostTurn_answers (countWait s)).imp_right fun ⟨hstuck, hf⟩ => ⟨.inr (.inr ⟨hmoves, hstuck⟩), hf⟩
  · have hmoves : hostMoves s = true := by simp [hostMoves, hev, hb]
    rw [if_neg hb]
    exact (hostTurn_answers s).imp_right fun ⟨hstuck, hf⟩ => ⟨.inr (.inr ⟨hmoves, hstuck⟩), hf⟩

/-- A step is answered, or a host action is stuck (R124). -/
theorem step_answers (s : State) : (∃ t, step s = .next t) ∨ (HostStuck s ∧ ∃ f, step s = .fault f) := by
  cases hev : s.events with
  | nil => rw [step_of_no_events hev]; exact runFree_answers hev
  | cons e rest =>
    have hstep : step s = runEvent e (dropEvent s) := by rw [eq_before hev]; rfl
    rw [hstep]
    cases e with
    | host =>
      have hmoves : hostMoves s = true := by simp [hostMoves, hev]
      exact (hostTurn_answers (dropEvent s)).imp_right fun ⟨hstuck, hf⟩ => ⟨.inr (.inr ⟨hmoves, hstuck⟩), hf⟩
    | engine => exact .inl (engineTurn_answers _)
    | reset => exact .inl ⟨_, rfl⟩
    | read width offset => exact .inl ⟨_, rfl⟩
    | write width offset v => exact .inl (portWrite_answers width offset v _)
    | memRead addr n =>
      by_cases hend : 2 ^ 32 < addr.toNat + n
      · exact .inr ⟨.inl ⟨addr, n, by rw [hev]; rfl, hend⟩, _, if_pos hend⟩
      · exact .inl ⟨_, if_neg hend⟩
    | memWrite addr bytes =>
      by_cases hend : 2 ^ 32 < addr.toNat + bytes.length
      · exact .inr ⟨.inr (.inl ⟨addr, bytes, by rw [hev]; rfl, hend⟩), _, if_pos hend⟩
      · exact .inl ⟨_, if_neg hend⟩

/-- R3, R12: a host read within the external memory. -/
theorem step_memRead {addr : Word} {n : Nat} (h : addr.toNat + n ≤ 2 ^ 32) (s : State) :
    step (before (.memRead addr n) s) = .next (respond (.bytes (readBytes s.mem addr.toNat n)) s) :=
  if_neg (Nat.not_lt.2 h)

/-- What a host write of the external memory leaves (R3, R49). -/
def afterHostWrite (addr : Word) (bytes : List Byte) (s : State) : State :=
  respond .done { s with mem := writeBytes s.mem addr.toNat bytes }

/-- R3, R49: a host write within the external memory. -/
theorem step_memWrite {addr : Word} {bytes : List Byte} (h : addr.toNat + bytes.length ≤ 2 ^ 32) (s : State) :
    step (before (.memWrite addr bytes) s) = .next (afterHostWrite addr bytes s) :=
  if_neg (Nat.not_lt.2 h)

/-- Settles O47: `step_answers` with each clause's own turn. -/
theorem nothingTheMachineDoesStops : Obligations.NothingTheMachineDoesStops := by
  intro s
  refine ⟨fun r hr => ?_, fun f hf => ?_, fun e he => ?_, fun addr n hle => ?_, fun addr bytes hle => ?_⟩
  · rcases step_answers s with ⟨t, ht⟩ | ⟨_, f, hf⟩
    · rw [hr] at ht; cases ht
    · rw [hr] at hf; cases hf
  · rcases step_answers s with ⟨t, ht⟩ | ⟨hstuck, _⟩
    · rw [hf] at ht; cases ht
    · exact hstuck
  · rcases List.mem_pair.1 he with rfl | rfl
    · exact engineTurn_answers s
    · exact ⟨_, rfl⟩
  · rw [step_memRead hle, readBytes_eq_map]; rfl
  · refine ⟨_, step_memWrite hle s, fun k hk => ?_, fun a ha => ?_, rfl⟩
    · exact readByte_writeBytes_inside bytes s.mem addr.toNat k hk
    · exact readByte_writeBytes_outside bytes s.mem addr.toNat a ha

/-! What the turns run (R78, R84, R90). -/

/-- Settles O9: the engine's turn by definition, and a free-running step of it when the host is through. -/
theorem engineTurnRunsThePendingCommand : Obligations.EngineTurnRunsThePendingCommand := by
  refine ⟨fun s p hp => ?_, fun s hp => ?_, fun s p hev hp hfin => ?_⟩
  · simp only [step_before, runEvent, engineTurn, hp]
  · simp only [step_before, runEvent, engineTurn, hp]
  · have hdue : engineDue s = true := by simp [engineDue, hostFinished, hfin]
    rw [step_of_no_events hev, runFree, if_pos (busy_of_pending hp), if_pos hdue]
    simp only [engineTurn, nextDelay, hp]

/-- A turn of the host program executes its next statement, the position already past it (R78). -/
theorem step_host {s : State} {st : Stmt} (h : s.host.prog[s.host.pc]? = some st) :
    step (before .host s) = runStmt st (advanceHost s) := by
  simp only [step_before, runEvent, hostTurn, h]

/-- R78: a command statement writes its word to CMD. -/
theorem runStmt_cmd {i : Instr} (hwf : i.wf = true) (s : State) :
    runStmt (.cmd i) s = writeReg .cmd (encode i) (respond .done s) :=
  if_pos hwf

/-- Settles O7: the three ways a command's word reaches CMD, with no command pending. -/
theorem cmdWriteRunsTheDecodedCommand : Obligations.CmdWriteRunsTheDecodedCommand := by
  refine ⟨fun s w i hp hd => ?_, fun s w i hw hd => ?_, fun s i hp hwf hst => ?_⟩
  · rw [step_writeCmd, writeCmd_command (s := respond .done s) hp hd]; rfl
  · have hword : w % 2 ^ min 32 32 = w := Nat.mod_eq_of_lt hw
    refine (step_writeCmd _ { s with pending := none }).trans ?_
    rw [hword, writeCmd_command (s := respond .done { s with pending := none }) rfl hd]
    rfl
  · have hd : decode (encode i) = .ok i := decodeOfEncodeIsTheCommand i hwf
    rw [step_host hst, runStmt_cmd hwf, writeCmd_command (s := respond .done (advanceHost s)) hp hd]
    rfl

/-- R78: a temporary holds what was last read into it. -/
theorem tempValue_insertKey (h : HostProgram) (n m : Nat) (v : Word) :
    tempValue { h with temps := insertKey h.temps n v } m = if n = m then v else tempValue h m := by
  simp only [tempValue, findKey_insertKey]
  split <;> rfl

/-- R81: a register read moves no field of the host. -/
theorem readReg_host (r : Reg) (s : State) : (readReg r s).2.host = s.host := by
  obtain ⟨e, he, _⟩ := readReg_state r s
  rw [he]

/-- Settles O8: each statement is the turn of its access on the state with the position moved on. -/
theorem hostStatementsActAsStated : Obligations.HostStatementsActAsStated := by
  intro s st hst
  have hhost := step_host hst
  cases st with
  | cmd i => exact fun hwf => hhost.trans ((runStmt_cmd hwf _).trans (step_writeCmd _ _).symm)
  | wr r v => exact hhost.trans (step_write (regAt_offset r) v (advanceHost s)).symm
  | rd r n =>
    refine ⟨_, _, _, step_readReg r (advanceHost s), rfl, hhost, ?_, fun m hm => ?_, ?_⟩
    · exact (tempValue_insertKey _ n n _).trans (if_pos rfl)
    · refine (tempValue_insertKey _ n m _).trans ((if_neg (Ne.symm hm)).trans ?_)
      rw [respond_host, readReg_host]; rfl
    · rw [setTemp, respond_host, readReg_host]; rfl
  | label l => exact hhost
  | bnz n mask l =>
    rw [hhost]
    refine ⟨fun hclear => if_neg (not_not.2 hclear), fun hset => ⟨fun k hk => ?_, fun hnone => ?_⟩⟩
    · exact (if_pos hset).trans (by simp only [advanceHost_host, hk]; rfl)
    · exact (if_pos hset).trans (by simp only [advanceHost_host, hnone])

/-- Settles O60: no turn is fixed and nothing is pending, so the step is the host's, and the host has no statement left. -/
theorem endedRunStaysAsItIs : Obligations.EndedRunStaysAsItIs := by
  intro s hfin hev hp
  have hidle : s.busy = false := (busy_eq_false_iff s).2 hp
  refine ⟨by simp [runEnded, hostFinished, hfin, hev, hidle], ?_⟩
  rw [step_of_no_events hev, runFree, if_neg (by simp [hidle]), hostTurn, List.getElem?_eq_none hfin]

/-! Races (R62, R149, R152): what the engine's step does with a turn still to come. -/

/-- The engine's step moves neither the turns to come nor the response. -/
theorem effectOf_events (p : Pending) (s : State) :
    (effectOf p s).events = s.events ∧ (effectOf p s).response = s.response := by
  by_cases hm : p.instr = .map
  · rw [effectOf_map _ hm, mapPixel_frame]; exact ⟨rfl, rfl⟩
  · rw [effectOf_oneStep_frame hm]; exact ⟨rfl, rfl⟩

/-- The engine's step does not see the turns to come. -/
theorem effectOf_before (p : Pending) (e : Event) (s : State) :
    effectOf p (before e s) = before e (effectOf p s) := by
  obtain ⟨i, v, b, st, n⟩ := p
  cases i with
  | map =>
    have hput : ∀ q, putPixel q (before e s) = before e (putPixel q s) := by
      intro q
      simp only [putPixel, dropReply_eq]
      rfl
    simp only [effectOf, mapPixel, hput, show nextReply (before e s) = nextReply s from rfl,
      show (before e s).params = s.params from rfl]
    split_ifs <;> rfl
  | nop | clear | buildLut | splat | addsat => rfl

/-- R90: the engine's turn first, then the turn after it. -/
theorem runSteps_engine_first {s : State} {p : Pending} (hp : s.pending = some p) (e : Event) :
    runSteps 2 (before .engine (before e s)) = step (before e (effectOf p s)) := by
  rw [runSteps_succ 1 (step_engine (s := before e s) hp), runSteps_one, effectOf_before]

/-- R149: another turn first, which leaves the command pending, then the engine's. -/
theorem runSteps_engine_second {s t : State} {p : Pending} {e : Event}
    (h : step (before e (before .engine s)) = .next (before .engine t)) (ht : t.pending = some p) :
    runSteps 2 (before e (before .engine s)) = .next (effectOf p t) := by
  rw [runSteps_succ 1 h, runSteps_one, step_engine ht]

/-- Settles O59: the engine first, and the word is issued in the state it left; or the word first, and it is dropped. -/
theorem unwaitedCommandHasTwoOutcomes : Obligations.UnwaitedCommandHasTwoOutcomes := by
  intro s p i hp hm hwf
  have hd : decode (encode i) = .ok i := decodeOfEncodeIsTheCommand i hwf
  have hidle : (effectOf p s).pending = none := by rw [effectOf_oneStep_frame hm]
  refine ⟨⟨_, exec_running hp, hidle, ?_⟩, ?_⟩
  · rw [runSteps_engine_first hp, step_writeCmd, writeCmd_command (s := respond .done (effectOf p s)) hidle hd]
    rfl
  · have hdrop := step_writeCmd_busy (s := before .engine s) hp (encode i)
    rw [runSteps_engine_second (t := overrun (respond .done s)) hdrop hp]
    exact (exec_running (s := overrun (respond .done s)) hp).symm

/-- R121: the memory after a pixel's write that was answered `ok`. -/
theorem effectOf_mem_of_ok {p : Pending} {s : State} (hm : p.instr = .map) (hok : nextReply s = .ok) :
    (effectOf p s).mem = writeWord s.mem (nextPixelAddr p s) (nextPixelColour p s) := by
  rw [effectOf_mem, if_pos hm, putPixel_mem, hok]
  rfl

/-- Settles O58: the four runs, each with the memory or the response that its second turn leaves. -/
theorem hostAccessRacesWithMap : Obligations.HostAccessRacesWithMap := by
  intro s p hinv hp hm hok addr word
  have hfits : nextPixelAddr p s + 4 ≤ 2 ^ 32 := nextPixelAddr_fits hm (hinv.pending p hp)
  have haddr : addr.toNat = nextPixelAddr p s :=
    (BitVec.toNat_ofNat _ _).trans (Nat.mod_eq_of_lt (by omega))
  have hend : addr.toNat + 4 ≤ 2 ^ 32 := haddr ▸ hfits
  have hmem := effectOf_mem_of_ok hm hok
  refine ⟨⟨_, (runSteps_engine_first hp _).trans (step_memRead hend _), ?_⟩, ?_, fun v => ⟨?_, ?_⟩⟩
  · rw [respond_response, haddr, hmem]
    exact congrArg (some ∘ Response.bytes) (readBytes_writeBytes _ _ _)
  · refine ⟨_, runSteps_engine_second (t := respond _ s) (step_memRead hend (before .engine s)) hp, ?_⟩
    rw [(effectOf_events p _).2, respond_response, haddr]
    rfl
  · refine ⟨_, (runSteps_engine_first hp _).trans (step_memWrite (bytes := wordBytes v) hend _), ?_⟩
    exact readBytes_writeBytes _ _ (wordBytes v)
  · have hmem' := effectOf_mem_of_ok (s := afterHostWrite addr (wordBytes v) s) hm hok
    refine ⟨_, runSteps_engine_second (t := afterHostWrite addr (wordBytes v) s)
      (step_memWrite (bytes := wordBytes v) hend (before .engine s)) hp, ?_⟩
    rw [hmem', haddr]
    exact readBytes_writeBytes _ _ word

end Sys2Proof.Machine

namespace Sys2Proof.Machine

/-! The engine's steps are bounded (R93): one for a one-step command, and one per pixel left for a MAP. -/

/-- One engine turn of several ends the command, or leaves a MAP at the next pixel with the other turns to come. -/
theorem effectOf_pending_cases (p : Pending) (s : State) :
    (effectOf p s).pending = none ∨
    (p.instr = .map ∧ p.index + 1 ≠ s.params.w * s.params.h ∧
      (effectOf p s).pending = some { p with index := p.index + 1 }) := by
  by_cases hm : p.instr = .map
  · rw [effectOf_map _ hm]
    rcases mapPixel_cases p s with ⟨_, _, h⟩ | ⟨_, hmore, h⟩ | ⟨_, h⟩ <;> rw [h]
    · exact .inl rfl
    · exact .inr ⟨hm, hmore, rfl⟩
    · exact .inl rfl
  · rw [effectOf_oneStep_frame hm]
    exact .inl rfl

/-- R93: `k` engine turns end a MAP that has `k` pixels left, at least one. -/
theorem runSteps_engine_ends (k : Nat) :
    ∀ (s : State) (p : Pending), s.events = List.replicate k .engine → s.pending = some p →
      k + p.index = s.params.w * s.params.h → 0 < k →
      ∃ n t, n ≤ k ∧ runSteps n s = .next t ∧ t.pending = none := by
  induction k with
  | zero => intro s p _ _ _ hpos; exact absurd hpos (Nat.lt_irrefl 0)
  | succ k ih =>
    intro s p hev hp hleft _
    have hstep : step s = .next (effectOf p (dropEvent s)) := by
      rw [eq_before hev]; exact step_engine (s := dropEvent s) hp
    have hev' : (effectOf p (dropEvent s)).events = List.replicate k .engine := by
      rw [(effectOf_events p _).1, dropEvent_events, hev]; rfl
    rcases effectOf_pending_cases p (dropEvent s) with hdone | ⟨_, hmore, hp'⟩
    · exact ⟨1, _, by omega, (runSteps_one s).trans hstep, hdone⟩
    · rw [dropEvent_params] at hmore
      have hleft' : k + (p.index + 1) = s.params.w * s.params.h := by omega
      obtain ⟨n, t, hn, hrun, ht⟩ := ih _ _ hev' hp' (by rw [effectOf_params]; exact hleft') (by omega)
      exact ⟨n + 1, t, by omega, (runSteps_succ n hstep).trans hrun, ht⟩

/-- Settles O49: a one-step command ends in its step; a pending MAP has a pixel left, and each turn writes one. -/
theorem engineStepsAreBounded : Obligations.EngineStepsAreBounded := by
  intro s p hinv hp
  refine ⟨fun hm => ⟨_, step_engine hp, by rw [effectOf_oneStep_frame hm]⟩, fun hm k hk => ?_⟩
  have hindex := (pendingReady_map hm (hinv.pending p hp)).2
  exact runSteps_engine_ends k { s with events := List.replicate k .engine } p rfl hp hk (by omega)

/-! Every accepted command ends (R93): with no turn fixed, each step uses up a pixel left or a host turn before the engine's. -/

/-- What a host turn leaves alone while a command is pending, unless it ends the command by a reset. -/
structure SameSchedule (s t : State) : Prop where
  params : t.params = s.params
  pending : t.pending = s.pending
  events : t.events = s.events
  prog : t.host.prog = s.host.prog
  freeIdx : t.freeIdx = s.freeIdx
  waited : t.waited = s.waited

theorem SameSchedule.refl (s : State) : SameSchedule s s := ⟨rfl, rfl, rfl, rfl, rfl, rfl⟩

theorem SameSchedule.trans {s t u : State} (h : SameSchedule s t) (h' : SameSchedule t u) : SameSchedule s u :=
  ⟨h'.params.trans h.params, h'.pending.trans h.pending, h'.events.trans h.events, h'.prog.trans h.prog,
    h'.freeIdx.trans h.freeIdx, h'.waited.trans h.waited⟩

theorem sameSchedule_respond (r : Response) (s : State) : SameSchedule s (respond r s) := ⟨rfl, rfl, rfl, rfl, rfl, rfl⟩

theorem sameSchedule_advanceHost (s : State) : SameSchedule s (advanceHost s) := ⟨rfl, rfl, rfl, rfl, rfl, rfl⟩

/-- R89, R140: a register write while a command is pending is a reset or leaves the command alone. -/
theorem writeReg_sameSchedule {r : Reg} {v : Word} {s t : State} {p : Pending} (hp : s.pending = some p)
    (h : writeReg r v s = .next t) :
    t.pending = none ∨ SameSchedule s t := by
  rcases writeReg_cases h with ⟨_, _, rfl⟩ | ⟨_, hc, rfl⟩ | ⟨_, _, rfl⟩ | ⟨_, hidle, _⟩ | ⟨_, hidle, _⟩
  · exact .inl rfl
  · rw [writePlain_frame s hc]; exact .inr ⟨rfl, rfl, rfl, rfl, rfl, rfl⟩
  · exact .inr ⟨rfl, rfl, rfl, rfl, rfl, rfl⟩
  · simp [hp] at hidle
  · simp [hp] at hidle

theorem runStmt_sameSchedule {st : Stmt} {s t : State} {p : Pending} (hp : s.pending = some p)
    (h : runStmt st s = .next t) : t.pending = none ∨ SameSchedule s t := by
  cases st with
  | cmd i =>
    by_cases hwf : i.wf = true
    · rw [runStmt_cmd hwf] at h
      exact (writeReg_sameSchedule (s := respond .done s) hp h).imp_right (sameSchedule_respond .done s).trans
    · simp [runStmt, hwf] at h
  | wr r v => exact (writeReg_sameSchedule (s := respond .done s) hp h).imp_right (sameSchedule_respond .done s).trans
  | rd r n =>
    obtain rfl := Host.Outcome.next.inj h
    obtain ⟨e, he, _⟩ := readReg_state r s
    rw [he]
    exact .inr ⟨rfl, rfl, rfl, rfl, rfl, rfl⟩
  | label l =>
    obtain rfl := Host.Outcome.next.inj h
    exact .inr (.refl s)
  | bnz n mask l =>
    simp only [runStmt] at h
    split at h
    · split at h
      · obtain rfl := Host.Outcome.next.inj h
        exact .inr ⟨rfl, rfl, rfl, rfl, rfl, rfl⟩
      · cases h
    · obtain rfl := Host.Outcome.next.inj h
      exact .inr (.refl s)

theorem hostTurn_sameSchedule {s t : State} {p : Pending} (hp : s.pending = some p) (h : hostTurn s = .next t) :
    t.pending = none ∨ SameSchedule s t := by
  unfold hostTurn at h
  split at h
  · obtain rfl := Host.Outcome.next.inj h
    exact .inr (.refl s)
  · exact (runStmt_sameSchedule (s := advanceHost s) hp h).imp_right (sameSchedule_advanceHost s).trans

/-- A command is pending, no turn is fixed, and the host program has a meaning throughout (R78). -/
structure FreeRunning (s : State) (p : Pending) : Prop where
  inv : Inv s
  host : hostWf s.host = true
  events : s.events = []
  pending : s.pending = some p

/-- The engine steps a pending command has left at most. -/
def stepsLeft (p : Pending) (s : State) : Nat := s.params.w * s.params.h - p.index

/-- The host turns before the engine's next step. -/
def delayLeft (s : State) : Nat := Config.freeDelay s.freeIdx - s.waited

theorem hostWf_congr {h h' : HostProgram} (hprog : h'.prog = h.prog) : hostWf h' = hostWf h := by
  simp only [hostWf, hprog]

/-- A well-formed host program is never stuck at a statement, so a free-running step is answered. -/
theorem FreeRunning.step_answers {s : State} {p : Pending} (h : FreeRunning s p) : ∃ t, step s = .next t := by
  rcases Machine.step_answers s with ht | ⟨hstuck | hstuck | ⟨_, st, hst, hstuck⟩, _⟩
  · exact ht
  · obtain ⟨_, _, hev, _⟩ := hstuck
    simp [h.events] at hev
  · obtain ⟨_, _, hev, _⟩ := hstuck
    simp [h.events] at hev
  · have hwf := List.all_eq_true.1 h.host st (List.mem_of_getElem? hst)
    rcases hstuck with ⟨i, rfl, hi⟩ | ⟨n, mask, l, rfl, hl⟩
    · simp [hi] at hwf
    · simp [hl] at hwf

/-- A free-running step ends the command, or uses up an engine step, or with as many left a host turn. -/
theorem FreeRunning.step_decreases {s t : State} {p : Pending} (h : FreeRunning s p) (hstep : step s = .next t) :
    t.pending = none ∨ ∃ q, FreeRunning t q ∧
      (stepsLeft q t < stepsLeft p s ∨ stepsLeft q t = stepsLeft p s ∧ delayLeft t < delayLeft s) := by
  have hinv : Inv t := everyStepKeepsTheInvariant s t h.inv hstep
  rw [step_of_no_events h.events, runFree, if_pos (busy_of_pending h.pending)] at hstep
  by_cases hdue : engineDue s = true
  · have hengine : engineTurn (nextDelay s) = .next (effectOf p (nextDelay s)) := by
      simp only [engineTurn, nextDelay_pending, h.pending]
      exact exec_running (s := nextDelay s) h.pending
    rw [if_pos hdue, hengine] at hstep
    obtain rfl := Host.Outcome.next.inj hstep
    rcases effectOf_pending_cases p (nextDelay s) with hdone | ⟨hm, hmore, hp⟩
    · exact .inl hdone
    · have hindex := (pendingReady_map hm (h.inv.pending p h.pending)).2
      refine .inr ⟨_, ⟨hinv, ?_, ?_, hp⟩, .inl ?_⟩
      · rw [effectOf_map _ hm, mapPixel_frame]; exact h.host
      · rw [(effectOf_events p _).1]; exact h.events
      · simp only [stepsLeft, effectOf_params, nextDelay_params]
        omega
  · rw [if_neg hdue] at hstep
    rcases hostTurn_sameSchedule (s := countWait s) h.pending hstep with hdone | hsame
    · exact .inl hdone
    · have hwait : s.waited < Config.freeDelay s.freeIdx := by
        simp only [engineDue, Bool.or_eq_true, decide_eq_true_eq] at hdue
        omega
      refine .inr ⟨p, ⟨hinv, ?_, hsame.events.trans h.events, hsame.pending.trans h.pending⟩, .inr ⟨?_, ?_⟩⟩
      · rw [hostWf_congr hsame.prog]; exact h.host
      · simp only [stepsLeft, hsame.params, countWait_params]
      · simp only [delayLeft, hsame.freeIdx, hsame.waited, countWait_freeIdx, countWait_waited]
        omega

/-- R93: the pair of engine steps and host turns left goes down, so the command ends. -/
theorem FreeRunning.ends (steps : Nat) :
    ∀ (delay : Nat) {s : State} {p : Pending}, FreeRunning s p → stepsLeft p s ≤ steps → delayLeft s ≤ delay →
      ∃ n t, runSteps n s = .next t ∧ t.pending = none := by
  induction steps using Nat.strong_induction_on with
  | _ steps ihSteps =>
    intro delay
    induction delay using Nat.strong_induction_on with
    | _ delay ihDelay =>
      intro s p h hsteps hdelay
      obtain ⟨t, hstep⟩ := h.step_answers
      rcases h.step_decreases hstep with hdone | ⟨q, hq, hless⟩
      · exact ⟨1, t, (runSteps_one s).trans hstep, hdone⟩
      · have hrest : ∃ n u, runSteps n t = .next u ∧ u.pending = none := by
          rcases hless with hfewer | ⟨hsame, hsooner⟩
          · exact ihSteps (stepsLeft q t) (by omega) (delayLeft t) hq le_rfl le_rfl
          · exact ihDelay (delayLeft t) (by omega) hq (by omega) le_rfl
        obtain ⟨n, u, hrun, hu⟩ := hrest
        exact ⟨n + 1, u, (runSteps_succ n hstep).trans hrun, hu⟩

/-- Settles O48: the state is free running, and what it has left is finite. -/
theorem everyAcceptedCommandEnds : Obligations.EveryAcceptedCommandEnds := by
  intro s hinv hhost hev hp
  obtain ⟨p, hp⟩ := Option.ne_none_iff_exists'.1 hp
  exact FreeRunning.ends _ _ ⟨hinv, hhost, hev, hp⟩ le_rfl le_rfl

end Sys2Proof.Machine

namespace Sys2Proof.Machine

/-! The results of the six commands (R94 to R122). -/

/-- Settles O13: each of the four checks asks for the palette first. -/
theorem frameCommandsNeedThePalette : Obligations.FrameCommandsNeedThePalette := by
  intro s i hp hpal hnop hbuild
  have hcheck : checkOf i s = .noPalette := by
    cases i with
    | nop => exact absurd rfl hnop
    | buildLut d => exact absurd rfl (hbuild d)
    | clear | splat | addsat | map => exact if_pos hpal
  refine ⟨?_, rfl⟩
  rw [exec_idle hp, hcheck]
  rfl

/-- R90: `exec` of the pending command, named by its instruction, is the engine's step. -/
theorem exec_pending {s : State} {p : Pending} {i : Instr} (hp : s.pending = some p) (hi : p.instr = i) :
    exec i s = .next (effectOf p s) :=
  hi ▸ exec_running hp

/-- Settles O14: NOP's effect is the completion alone. -/
theorem nopOnlyCompletes : Obligations.NopOnlyCompletes :=
  fun s _ hp hi => (exec_pending hp hi).trans (congrArg _ (effectOf_nop s hi))

/-- Settles O15: an unlisted cell reads 0, and the cleared canvas lists none. -/
theorem clearZeroesTheCanvas : Obligations.ClearZeroesTheCanvas := by
  intro s p hp hi
  exact ⟨_, (exec_pending hp hi).trans (congrArg _ (effectOf_clear s hi)), fun _ _ => rfl, rfl⟩

/-- R95: the squared distance as a sum of squares of integers. -/
theorem sqDist_eq {r i j sq : Nat} (h : (sq : Int) = ((i : Int) - r) ^ 2 + ((j : Int) - r) ^ 2) : sqDist r i j = sq := by
  have hcast : ((sqDist r i j : Nat) : Int) = sq := by
    rw [h, sqDist]
    push_cast
    rw [sq_abs, sq_abs]
  exact Int.ofNat_inj.1 hcast

/-- Settles O16: the table's cell holds the falloff of its squared distance, which fits a byte. -/
theorem buildLutWritesTheFalloff : Obligations.BuildLutWritesTheFalloff := by
  intro s p d hp hi hd
  have hdiam : (BitVec.ofNat 12 d).toNat = d := (BitVec.toNat_ofNat d 12).trans (Nat.mod_eq_of_lt hd)
  refine ⟨_, (exec_pending hp hi).trans (congrArg _ (effectOf_buildLut s hi)), hdiam, fun i j sq hi hj hsq => ?_, rfl⟩
  have hcell : lutCell (complete .ok { s with lut := builtLut d, lutDiam := BitVec.ofNat 12 d, lutValid := true }) i j =
      lutValue d i j := by
    simp only [lutCell, complete_lut, complete_lutDiam, hdiam]
    exact cellAt_builtLut_index hi hj
  rw [hcell, toNat_lutValue, radius, sqDist_eq hsq]
  rfl

/-- Settles O17: one saturating add of the copied value at the cell's index, which no other cell has. -/
theorem addsatAddsTheCopiedValue : Obligations.AddsatAddsTheCopiedValue := by
  intro s p x y hp hi hx _
  refine ⟨_, (exec_pending hp hi).trans (congrArg _ (effectOf_addsat s hi)), ?_, fun x' y' hx' hne => ?_, rfl⟩
  · simp only [canvasCell, complete_canvas, complete_params, cellAt_addsatCell, if_true, toNat_sat8]
  · have hother : ¬ (x = x' ∧ y = y') := by omega
    simp only [canvasCell, complete_canvas, complete_params, cellAt_addsatCell, canvasIndex_inj hx hx', if_neg hother]

/-- Settles O18: every footprint cell gets its one contribution, and the others keep their value. -/
theorem splatAddsEveryLutCell : Obligations.SplatAddsEveryLutCell := by
  intro s p x y hp hi hx _
  refine ⟨_, (exec_pending hp hi).trans (congrArg _ (effectOf_splat s hi)), fun i j hi hj => ?_, fun x' y' hx' hout => ?_, rfl⟩
  · have hin : x ≤ x + i ∧ x + i < x + s.lutDiam.toNat ∧ y ≤ y + j ∧ y + j < y + s.lutDiam.toNat := by omega
    simp only [canvasCell, complete_canvas, complete_params, cellAt_splatted _ _ _ _ hx _ _ (x + i) (y + j) (by omega),
      if_pos hin, toNat_sat8, Nat.add_sub_cancel_left, lutCell]
  · simp only [canvasCell, complete_canvas, complete_params, cellAt_splatted _ _ _ _ hx _ _ x' y' hx', if_neg hout]

/-- A pixel's write with its reply, field by field (R51, log 6). -/
theorem putPixel_eq (p : Pending) (s : State) :
    putPixel p s = { s with
      mem := (putPixel p s).mem, replies := s.replies.tail
      freeIdx := if s.replies = [] then s.freeIdx + 1 else s.freeIdx } := by
  simp only [putPixel, dropReply_eq]

/-- R52, R121: the four bytes of a pixel's write that lands. -/
theorem readByte_putPixel_inside {p : Pending} {s : State} (h : landed (nextReply s) = true) {k : Nat} (hk : k < 4) :
    readByte (putPixel p s).mem (nextPixelAddr p s + k) = some ((nextPixelColour p s).extractLsb' (8 * k) 8) := by
  rw [putPixel_mem, if_pos h]
  exact readByte_writeWord_inside _ _ _ _ hk

/-- Settles O19: with `ok` the pixel's bytes land, and MAP ends or goes on by whether this was the last pixel. -/
theorem mapWritesTheNextPixel : Obligations.MapWritesTheNextPixel := by
  intro s p hp hm _ hok
  have hland : landed (nextReply s) = true := by rw [hok]; rfl
  have hmem : (effectOf p s).mem = (putPixel p s).mem := by rw [effectOf_mem, if_pos hm]
  have hbyte : ∀ k, k < 4 → readByte (effectOf p s).mem (nextPixelAddr p s + k) =
      some ((nextPixelColour p s).extractLsb' (8 * k) 8) :=
    fun k hk => hmem ▸ readByte_putPixel_inside hland hk
  refine ⟨_, exec_pending hp hm, hbyte 0 (by decide), hbyte 1 (by decide), hbyte 2 (by decide), hbyte 3 (by decide),
    fun a ha => hmem ▸ putPixel_outside p s a ha, fun hlast => ?_, fun hmore => ?_⟩
  · rw [hmem, effectOf_map _ hm, mapPixel, if_pos hok, if_pos hlast, putPixel_eq]
    rfl
  · rw [hmem, effectOf_map _ hm, mapPixel, if_pos hok, if_neg hmore, putPixel_eq]

/-- Settles O20: with `err` MAP ends with BUS_ERROR, whatever the pixel, and its bytes land as the reply says. -/
theorem mapStopsAtAFailedWrite : Obligations.MapStopsAtAFailedWrite := by
  intro s p b hp hm herr
  have hmem : (effectOf p s).mem = (putPixel p s).mem := by rw [effectOf_mem, if_pos hm]
  refine ⟨rfl, _, exec_pending hp hm, fun hb k hk => ?_, fun hb k _ => ?_, fun a ha => hmem ▸ putPixel_outside p s a ha, ?_⟩
  · exact hmem ▸ readByte_putPixel_inside (by rw [herr]; exact hb) hk
  · rw [hmem, putPixel_mem, herr, hb]
    rfl
  · have hnot : nextReply s ≠ .ok := by rw [herr]; exact BusReply.noConfusion
    rw [hmem, effectOf_map _ hm, mapPixel, if_neg hnot, putPixel_eq]
    rfl

/-! Several SPLATs (R110): the canvas they leave, cell by cell, does not depend on their order. -/

/-- A cell beyond a canonical memory's size holds 0. -/
theorem cellAt_eq_zero_of_le {size k : Nat} {m : List (Nat × Byte)} (hm : cellsWf size m) (hk : size ≤ k) :
    cellAt m k = 0 := by
  rw [cellAt, findKey_eq_none fun e he => ?_]
  · rfl
  · have := (hm.2 e he).1
    omega

/-- Two canonical canvases that agree at every position are equal. -/
theorem eq_of_canvasCells_eq {w h : Nat} {c c' : List (Nat × Byte)} (hc : cellsWf (w * h) c) (hc' : cellsWf (w * h) c')
    (heq : ∀ x y, x < w → y < h → cellAt c (canvasIndex w x y) = cellAt c' (canvasIndex w x y)) : c = c' := by
  refine eq_of_cellAt_eq hc hc' fun k => ?_
  by_cases hk : k < w * h
  · have hw : 0 < w := Nat.pos_of_mul_pos_right (Nat.zero_lt_of_lt hk)
    have hindex : canvasIndex w (k % w) (k / w) = k := Nat.div_add_mod' k w
    rw [← hindex]
    exact heq _ _ (Nat.mod_lt k hw) (Nat.div_lt_of_lt_mul hk)
  · rw [cellAt_eq_zero_of_le hc (by omega), cellAt_eq_zero_of_le hc' (by omega)]

/-- The canvas after the SPLATs at these positions, one after another. -/
def splatAll (w d : Nat) (lut canvas : List (Nat × Byte)) (ps : List (Nat × Nat)) : List (Nat × Byte) :=
  ps.foldl (fun c q => splatted w d q.1 q.2 lut c) canvas

/-- What the SPLAT at `q` puts on canvas cell (x, y). -/
def contribution (d : Nat) (lut : List (Nat × Byte)) (x y : Nat) (q : Nat × Nat) : Nat :=
  if q.1 ≤ x ∧ x < q.1 + d ∧ q.2 ≤ y ∧ y < q.2 + d then (cellAt lut (lutIndex d (x - q.1) (y - q.2))).toNat else 0

theorem toNat_cellAt_splatted {w d : Nat} {q : Nat × Nat} (hq : q.1 + d ≤ w) (lut canvas : List (Nat × Byte)) {x : Nat}
    (hx : x < w) (y : Nat) :
    (cellAt (splatted w d q.1 q.2 lut canvas) (canvasIndex w x y)).toNat =
      min 255 ((cellAt canvas (canvasIndex w x y)).toNat + contribution d lut x y q) := by
  have hcell := (cellAt canvas (canvasIndex w x y)).isLt
  rw [cellAt_splatted w d q.1 q.2 hq lut canvas x y hx, contribution]
  split
  · rw [toNat_sat8]
  · omega

/-- R110: the saturated sum, clipped once. -/
theorem toNat_cellAt_splatAll {w d : Nat} (lut : List (Nat × Byte)) {x : Nat} (hx : x < w) (y : Nat)
    (ps : List (Nat × Nat)) (hps : ∀ q ∈ ps, q.1 + d ≤ w) (canvas : List (Nat × Byte)) :
    (cellAt (splatAll w d lut canvas ps) (canvasIndex w x y)).toNat =
      min 255 ((cellAt canvas (canvasIndex w x y)).toNat + (ps.map (contribution d lut x y)).sum) := by
  induction ps generalizing canvas with
  | nil =>
    have hcell := (cellAt canvas (canvasIndex w x y)).isLt
    simp only [splatAll, List.foldl_nil, List.map_nil, List.sum_nil]
    omega
  | cons q ps ih =>
    obtain ⟨hq, hps⟩ := List.forall_mem_cons.1 hps
    have hrest := ih hps (splatted w d q.1 q.2 lut canvas)
    rw [toNat_cellAt_splatted hq lut canvas hx y] at hrest
    rw [splatAll, List.foldl_cons, ← splatAll, hrest, List.map_cons, List.sum_cons]
    omega

theorem splatAll_wf {w h d : Nat} (lut : List (Nat × Byte)) (ps : List (Nat × Nat))
    (hps : ∀ q ∈ ps, q.1 + d ≤ w ∧ q.2 + d ≤ h) {canvas : List (Nat × Byte)} (hc : cellsWf (w * h) canvas) :
    cellsWf (w * h) (splatAll w d lut canvas ps) := by
  induction ps generalizing canvas with
  | nil => exact hc
  | cons q ps ih =>
    obtain ⟨hq, hps⟩ := List.forall_mem_cons.1 hps
    exact ih hps (splatted_wf hq.1 hq.2 lut hc)

/-- The canvas does not see the order of the SPLATs, because a sum does not. -/
theorem splatAll_perm {w h d : Nat} (lut : List (Nat × Byte)) {ps qs : List (Nat × Nat)} (hperm : qs.Perm ps)
    (hps : ∀ q ∈ ps, q.1 + d ≤ w ∧ q.2 + d ≤ h) {canvas : List (Nat × Byte)} (hc : cellsWf (w * h) canvas) :
    splatAll w d lut canvas qs = splatAll w d lut canvas ps := by
  have hqs : ∀ q ∈ qs, q.1 + d ≤ w ∧ q.2 + d ≤ h := fun q hq => hps q (hperm.mem_iff.1 hq)
  refine eq_of_canvasCells_eq (splatAll_wf lut qs hqs hc) (splatAll_wf lut ps hps hc) fun x y hx _ => ?_
  apply BitVec.eq_of_toNat_eq
  rw [toNat_cellAt_splatAll lut hx y qs fun q hq => (hqs q hq).1, toNat_cellAt_splatAll lut hx y ps fun q hq => (hps q hq).1,
    (hperm.map _).sum_eq]

/-- The MBSA is ready for a SPLAT whose position fits: idle, with its palette, canvas and LUT (R142). -/
structure SplatReady (s : State) : Prop where
  pending : s.pending = none
  palComplete : s.palComplete = true
  canvasInit : s.canvasInit = true
  lutValid : s.lutValid = true

/-- What an accepted SPLAT leaves once its engine step is done (R88, R91, R109). -/
def afterSplat (x y : Nat) (s : State) : State :=
  { s with
    canvas := splatted s.params.w s.lutDiam.toNat x y s.lut s.canvas
    errCode := .ok, lastOp := Instr.opcode (.splat x y), done := true }

theorem SplatReady.afterSplat {s : State} (hs : SplatReady s) (x y : Nat) : SplatReady (afterSplat x y s) :=
  ⟨hs.pending, hs.palComplete, hs.canvasInit, hs.lutValid⟩

/-- R86, R88, R109: a SPLAT that fits is accepted, and its engine step leaves the splatted canvas. -/
theorem issueAndStep_splat {s : State} (hs : SplatReady s) {x y : Nat} (hx : x + s.lutDiam.toNat ≤ s.params.w)
    (hy : y + s.lutDiam.toNat ≤ s.params.h) :
    issueAndStep (.splat x y) s = .next (afterSplat x y s) := by
  have hcheck : checkOf (.splat x y) s = .ok :=
    (checkSplat_eq_ok_iff x y s).2 ⟨hs.palComplete, hs.canvasInit, hs.lutValid, hx, hy⟩
  have hissue : exec (.splat x y) s = .next (accept (.splat x y) s) := by
    rw [exec_idle hs.pending, hcheck]; rfl
  have hstep : engineTurn (accept (.splat x y) s) = .next (effectOf (capture (.splat x y) s) (accept (.splat x y) s)) :=
    exec_running (p := capture (.splat x y) s) rfl
  simp only [issueAndStep, hissue, hstep]
  rw [effectOf_splat _ rfl]
  simp [complete, accept, afterSplat, hs.pending]

/-- R60, R110: SPLATs that fit, one after another. -/
theorem issueAll_splats {d : Nat} {p : Params} {lut : List (Nat × Byte)} (ps : List (Nat × Nat))
    (hps : ∀ q ∈ ps, q.1 + d ≤ p.w ∧ q.2 + d ≤ p.h) :
    ∀ s : State, SplatReady s → s.params = p → s.lutDiam.toNat = d → s.lut = lut →
      ∃ t, issueAll (ps.map fun q => .splat q.1 q.2) s = .next t ∧ t.params = p ∧
        t.canvas = splatAll p.w d lut s.canvas ps := by
  induction ps with
  | nil => intro s _ hparams _ _; exact ⟨s, rfl, hparams, rfl⟩
  | cons q ps ih =>
    intro s hs hparams hdiam hlut
    obtain ⟨hq, hps⟩ := List.forall_mem_cons.1 hps
    subst hparams hdiam hlut
    have hstep := issueAndStep_splat hs hq.1 hq.2
    obtain ⟨t, ht, hparams, hcanvas⟩ :=
      ih hps (afterSplat q.1 q.2 s) (hs.afterSplat q.1 q.2) rfl rfl rfl
    refine ⟨t, ?_, hparams, hcanvas⟩
    simp only [List.map_cons, issueAll, hstep]
    exact ht

/-- Settles O52: the run leaves `splatAll`'s canvas, whose cells are saturated sums. -/
theorem splatOrderDoesNotMatter : Obligations.SplatOrderDoesNotMatter := by
  intro s ps hinv hp hpal hinit hvalid hps
  have hs : SplatReady s := ⟨hp, hpal, hinit, hvalid⟩
  obtain ⟨t, hrun, hparams, hcanvas⟩ := issueAll_splats ps hps s hs rfl rfl rfl
  refine ⟨t, hrun, fun x y hx _ => ?_, fun qs hperm => ?_⟩
  · rw [canvasCell, hparams, hcanvas, toNat_cellAt_splatAll s.lut hx y ps fun q hq => (hps q hq).1]
    rfl
  · obtain ⟨u, hrun', _, hcanvas'⟩ := issueAll_splats qs (fun q hq => hps q (hperm.mem_iff.1 hq)) s hs rfl rfl rfl
    exact ⟨u, hrun', by rw [hcanvas', hcanvas, splatAll_perm s.lut hperm hps hinv.canvas]⟩

end Sys2Proof.Machine

namespace Sys2Proof.Machine

/-! The registers, read and written through the port (R19 to R38, R81, R82). -/

/-- R34, R81: a turn that reads any register but the data ports has no side effect. -/
theorem step_readPlain {r : Reg} (hcanvas : r ≠ .canvasData) (hlut : r ≠ .lutData) (s : State) :
    step (before (.read 32 r.offset) s) = .next { s with response := some (.data (readReg r s).1) } :=
  (onlyDataPortReadsHaveSideEffects s r).1 hcanvas hlut

/-- Settles O26: two constants, three parameters within their ranges, and 0. -/
theorem identityRegistersRead : Obligations.IdentityRegistersRead := by
  intro s hlegal
  obtain ⟨hw, hh, hd⟩ := toNat_readReg_params hlegal
  exact ⟨⟨_, step_readPlain (r := .id) (by decide) (by decide) s, rfl⟩,
    ⟨_, step_readPlain (r := .version) (by decide) (by decide) s, rfl⟩,
    ⟨_, step_readPlain (r := .canvasW) (by decide) (by decide) s, hw⟩,
    ⟨_, step_readPlain (r := .canvasH) (by decide) (by decide) s, hh⟩,
    ⟨_, step_readPlain (r := .lutDmax) (by decide) (by decide) s, hd⟩,
    ⟨_, step_readPlain (r := .cmd) (by decide) (by decide) s, rfl⟩⟩

/-- A field of a word is what its bits say. -/
theorem extractLsb'_eq_of_getLsbD {w start len : Nat} {v : BitVec w} {f : BitVec len}
    (h : ∀ i, i < len → v.getLsbD (start + i) = f.getLsbD i) : v.extractLsb' start len = f :=
  BitVec.eq_of_getLsbD_eq fun i hi => by rw [BitVec.getLsbD_extractLsb', h i hi, decide_eq_true hi, Bool.true_and]

/-- R125: no code above 0x0C is produced. -/
theorem toNat_errCode_le (c : ErrCode) : c.bits.toNat ≤ 0x0C := by cases c <;> decide

/-- R25: the fields of STATUS above bit 3. -/
theorem statusWord_fields (s : State) :
    (statusWord s).extractLsb' 4 4 = 0 ∧ (statusWord s).extractLsb' 8 8 = s.errCode.bits ∧
      (statusWord s).extractLsb' 16 4 = s.lastOp ∧ (statusWord s).extractLsb' 20 12 = 0 := by
  refine ⟨?_, ?_, ?_, ?_⟩ <;> refine extractLsb'_eq_of_getLsbD fun i hi => ?_ <;> rw [getLsbD_statusWord]
  · simp (disch := omega) only [if_neg, if_pos]
    simp
  · simp (disch := omega) only [if_neg, if_pos, Nat.add_sub_cancel_left]
  · simp (disch := omega) only [if_neg, if_pos, Nat.add_sub_cancel_left]
  · simp (disch := omega) only [if_neg]
    simp

/-- Settles O27: the single bits and the fields, each read from `getLsbD_statusWord`. -/
theorem statusWordLayout : Obligations.StatusWordLayout := by
  intro s
  obtain ⟨hlow, hcode, hop, hhigh⟩ := statusWord_fields s
  refine ⟨step_readPlain (r := .status) (by decide) (by decide) s, ?_, getLsbD_statusWord s 1, getLsbD_statusWord s 2,
    getLsbD_statusWord s 3, hlow, hcode, hop, hhigh, toNat_errCode_le _⟩
  exact (iff_of_eq (congrArg (· = true) (getLsbD_statusWord s 0))).trans Option.isSome_iff_exists

/-- A register narrower than a word reads as its own number. -/
theorem toNat_setWidth_word {n : Nat} (hn : n ≤ 32) (v : BitVec n) : (v.setWidth 32).toNat = v.toNat := by
  rw [BitVec.toNat_setWidth, Nat.mod_eq_of_lt (v.isLt.trans_le (Nat.pow_le_pow_right (by decide) hn))]

/-- Settles O28: each register is a field shown in a wider word. -/
theorem errIntDiameterAndCountRead : Obligations.ErrIntDiameterAndCountRead := by
  intro s
  refine ⟨⟨_, step_readPlain (r := .err) (by decide) (by decide) s, toNat_setWidth_word (by decide) _⟩,
    ⟨_, step_readPlain (r := .int) (by decide) (by decide) s, ?_⟩,
    ⟨_, step_readPlain (r := .lutDiam) (by decide) (by decide) s, toNat_setWidth_word (by decide) _⟩,
    ⟨_, step_readPlain (r := .palCount) (by decide) (by decide) s, toNat_setWidth_word (by decide) _⟩⟩
  refine (toNat_setWidth_word (by decide) _).trans ?_
  cases s.done <;> rfl

/-- The low `n` bits of a word, as a mask. -/
theorem getLsbD_and_lowMask (v : Word) (n i : Nat) :
    (v &&& BitVec.ofNat 32 (2 ^ n - 1)).getLsbD i = (v.getLsbD i && decide (i < n)) := by
  rw [BitVec.getLsbD_and, BitVec.getLsbD_ofNat, Nat.testBit_two_pow_sub_one]
  by_cases hi : i < 32
  · simp [hi]
  · simp [hi, BitVec.getLsbD_of_ge v i (by omega)]

/-- R19: a register that keeps the low `n` bits reads them back, reserved bits 0. -/
theorem setWidth_lowField (v : Word) (n : Nat) :
    (v.extractLsb' 0 n).setWidth 32 = v &&& BitVec.ofNat 32 (2 ^ n - 1) := by
  refine BitVec.eq_of_getLsbD_eq fun i hi => ?_
  rw [getLsbD_and_lowMask, BitVec.getLsbD_setWidth, BitVec.getLsbD_extractLsb', Nat.zero_add, decide_eq_true hi,
    Bool.true_and, Bool.and_comm]

/-- R33, R35: a pointer reads back its two coordinates, bits [23:0]. -/
theorem ptrWord_of_fields (v : Word) : ptrWord (ptrLow v) (ptrHigh v) = v &&& 0x00FFFFFF := by
  refine BitVec.eq_of_getLsbD_eq fun i _ => ?_
  refine (getLsbD_ptrWord _ _ i).trans (Eq.trans ?_ (getLsbD_and_lowMask v 24 i).symm)
  rw [ptrLow, ptrHigh, BitVec.getLsbD_extractLsb', BitVec.getLsbD_extractLsb', Nat.zero_add]
  by_cases hlow : i < 12
  · simp [hlow, show i < 24 by omega]
  · by_cases hhigh : i < 24
    · simp [hlow, hhigh, show i - 12 < 12 by omega, show 12 + (i - 12) = i by omega]
    · simp [hlow, hhigh]

/-- R24: CTRL reads back IRQ_EN alone. -/
theorem ctrlWord_of_bit (v : Word) : ctrlWord (v.getLsbD 1) = v &&& 0x00000002 := by
  refine BitVec.eq_of_getLsbD_eq fun i _ => ?_
  rw [getLsbD_ctrlWord, BitVec.getLsbD_and, show (0x00000002 : Word) = BitVec.twoPow 32 1 from rfl, BitVec.getLsbD_twoPow]
  by_cases hi : i = 1
  · simp [hi]
  · simp [hi, Ne.symm hi]

/-- Settles O29: a write stores its field, and a read shows it in a word whose other bits are 0. -/
theorem writtenRegistersReadBack : Obligations.WrittenRegistersReadBack := by
  intro s v
  refine ⟨⟨_, step_writePlain (r := .cmdArg) (by decide) v s, setWidth_lowField v 8⟩,
    ⟨_, step_writePlain (r := .outBase) (by decide) v s, rfl⟩,
    ⟨_, step_writePlain (r := .outStride) (by decide) v s, setWidth_lowField v 16⟩,
    ⟨_, step_writePlain (r := .canvasPtr) (by decide) v s, ptrWord_of_fields v⟩,
    ⟨_, step_writePlain (r := .lutPtr) (by decide) v s, ptrWord_of_fields v⟩, fun hv => ?_⟩
  refine ⟨_, step_writePlain (r := .ctrl) (by decide) v s, ?_⟩
  simp only [writePlain, writeCtrl, hv]
  exact ctrlWord_of_bit v

/-- R19, R82: a write to a read-only register does nothing. -/
theorem writePlain_readOnly {r : Reg}
    (h : r ∈ [Reg.id, .version, .canvasW, .canvasH, .lutDmax, .status, .lutDiam, .canvasData, .lutData, .palCount]) (v : Word)
    (s : State) : r ≠ .cmd ∧ writePlain r v s = s := by
  cases r
  case ctrl | err | int | cmd | cmdArg | outBase | outStride | canvasPtr | lutPtr | pal => simp at h
  all_goals exact ⟨by decide, rfl⟩

/-- Settles O30: each register's own arm of `writePlain`, on the state with the normal response recorded. -/
theorem registerWriteFrame : Obligations.RegisterWriteFrame := by
  intro s v
  refine ⟨fun r hr => ?_, step_writePlain (r := .cmdArg) (by decide) v s, step_writePlain (r := .outBase) (by decide) v s,
    step_writePlain (r := .outStride) (by decide) v s, step_writePlain (r := .canvasPtr) (by decide) v s,
    step_writePlain (r := .lutPtr) (by decide) v s, ?_, ?_, fun hv => ?_⟩
  · obtain ⟨hcmd, hsame⟩ := writePlain_readOnly hr v (respond .done s)
    rw [step_writePlain hcmd, hsame]
    rfl
  · exact ⟨_, step_writePlain (r := .err) (by decide) v s, rfl, fun b hb => getLsbD_err_writeErr v (respond .done s) hb⟩
  · exact (step_writePlain (r := .int) (by decide) v s).trans (congrArg _ (writeInt_eq v (respond .done s)))
  · refine (step_writePlain (r := .ctrl) (by decide) v s).trans ?_
    simp only [writePlain, writeCtrl, hv]
    rfl

/-- Settles O39: the reset lets the stopped MAP's word land unless its reply says that it did not. -/
theorem stoppedMapWordHasTwoOutcomes : Obligations.StoppedMapWordHasTwoOutcomes := by
  intro s p reply hp hm hreply
  have hmem : (resetMachine s).mem =
      if landed reply then writeWord s.mem (nextPixelAddr p s) (nextPixelColour p s) else s.mem := by
    rw [resetMachine_mem, ← hreply, ← putPixel_mem]
    simp only [abandonPending, hp, hm, if_true]
  refine ⟨_, step_reset s, fun hne => ?_, fun heq => ?_⟩
  · have hland : landed reply = true := by
      cases reply with
      | ok => rfl
      | err b => cases b with
        | true => rfl
        | false => exact absurd rfl hne
    rw [hmem, if_pos hland]
  · rw [hmem, heq]
    rfl

/-- Settles O40: the registers of R139's table, and three fields of the reset state. -/
theorem resetStateReads : Obligations.ResetStateReads :=
  ⟨fun r v h => (readReg_reset_of_mem (r, v) h).2, rfl, rfl, rfl⟩

end Sys2Proof.Machine
